-- ==== Sys2Proof/Word.lean ====
section
/-! DEFINITION. The widths of the engine's values (00_scope.md R9, R11, R12) and the one plain
arithmetic function every family uses (R10). -/

namespace Sys2Proof

/-- One byte of the buffer memory (20_memory.md R50). -/
abbrev Byte := BitVec 8

/-- The value of a scalar register: `XLEN` = 64 bits (00_scope.md R9). -/
abbrev XWord := BitVec 64

/-- A cipher block, a round key or the value of a block register: 128 bits (00_scope.md R12). -/
abbrev Block := BitVec 128

/-- Four bytes of a key schedule, first byte most significant (41_block_cipher_core.md R116). -/
abbrev KeyWord := BitVec 32

/-- A command word (30_encoding.md R70). -/
abbrev CommandWord := BitVec 32

/-- `ceil(a/b)` of 00_scope.md R10, for `b > 0`. -/
def divUp (a b : Nat) : Nat := (a + b - 1) / b

end Sys2Proof
end

