-- ==== Sys2Proof/Config.lean ====
section
/-! DEFINITION. The parameters of 00_scope.md R9 that the rules name, and the one free value of the
model: the answers of the entropy oracle. -/

namespace Sys2Proof.Config

/-- `BLOCK_BYTES`, width of a cipher block in bytes (00_scope.md R9). -/
def blockBytes : Nat := 16

/-- `KEY_BYTES`, width of a cipher key in bytes (00_scope.md R9). -/
def keyBytes : Nat := 16

/-- `PRP_MAX_BITS`, the widest single-value domain of the PRP (00_scope.md R9). -/
def prpMaxBits : Nat := 64

/-- `PRP_ALL_MAX_BITS`, the widest domain of the full-domain forms (00_scope.md R9). -/
def prpAllMaxBits : Nat := 16

/-- `OUT_BLK_MIN` of BasicORE (00_scope.md R9). -/
def outBlkMin : Nat := 2

/-- `OUT_BLK_MAX` of BasicORE, `8 * PRF_OUTPUT_BYTES` (00_scope.md R9). -/
def outBlkMax : Nat := 128

/-- `BLOCK_LEN_MIN` of BlockORE (00_scope.md R9). -/
def blockLenMin : Nat := 1

/-- `BLOCK_LEN_MAX` of BlockORE (00_scope.md R9). -/
def blockLenMax : Nat := 16

/-- `MSG_BITS`, width of a message (00_scope.md R9). -/
def msgBits : Nat := 64

/-- The default of the open parameter `MEM_SIZE` (00_scope.md R9, 92_eei_decisions.md D6).
`State.reset` takes it; every other state carries its own size (DESIGN CHOICE, log 2). -/
def memSizeDefault : Nat := 262144

/-- The least `MEM_SIZE` (00_scope.md R9). -/
def memSizeMin : Nat := 16

/-- What an engine can have as its `MEM_SIZE`: a natural of at least 16 (00_scope.md R9,
93_implementation_defined.md I3). -/
abbrev MemSize := { n : Nat // memSizeMin ≤ n }

/-- FREE VALUE (DESIGN CHOICE, log 5). The answer of the entropy oracle to request number `n`, where
the list of answers in the state has run out: any block (its sixteen bytes, first byte first) or `none` for
`fail` (00_scope.md R16, 93_implementation_defined.md I4). Nothing is known of it. -/
opaque entropyBeyondScript : Nat → Option Block

end Sys2Proof.Config
end

