-- ==== Sys2Proof/Syntax.lean ====
section
/-! DEFINITION. The commands of 30_encoding.md R75 (one constructor per row of
spec/opcode_table.json), the host transactions of 00_scope.md R8 and the assembler's lines of
30_encoding.md R80 to R85, as abstract syntax. -/

namespace Sys2Proof

/-! Register indices: 4-bit fields, all sixteen values valid (30_encoding.md R73, R81). -/

/-- Index of a scalar register `x0` to `x15`. -/
abbrev XReg := Fin 16
/-- Index of a block register `b0` to `b15`. -/
abbrev BReg := Fin 16
/-- Index of a key schedule `k0` to `k15`. -/
abbrev KReg := Fin 16
/-- Index of a set of PRP round keys `p0` to `p15`. -/
abbrev PReg := Fin 16
/-- Index of a Params entry `pr0` to `pr15`. -/
abbrev PrReg := Fin 16
/-- Index of a SecretKey `s0` to `s15`. -/
abbrev SReg := Fin 16
/-- Index of a ciphertext descriptor `c0` to `c15`. -/
abbrev CReg := Fin 16

/-- The forty-one commands of 30_encoding.md R75, operands in the order of its fields `a` to `e`. -/
inductive Instr where
  /-- R90 -/
  | nop
  /-- R91 -/
  | li (xd : XReg) (imm16 : BitVec 16)
  /-- R92 -/
  | lih (xd : XReg) (imm16 : BitVec 16)
  /-- R93 -/
  | mkb (bd : BReg) (xh xl : XReg)
  /-- R94 -/
  | xbh (xd : XReg) (bs : BReg)
  /-- R95 -/
  | xbl (xd : XReg) (bs : BReg)
  /-- R96 -/
  | ldb (bd : BReg) (xa : XReg)
  /-- R97 -/
  | stb (bs : BReg) (xa : XReg)
  /-- R120 -/
  | kgen (kd : KReg)
  /-- R121 -/
  | kexp (kd : KReg) (bs : BReg)
  /-- R122 -/
  | kexpm (kd : KReg) (xa xlen : XReg)
  /-- R124 -/
  | kclr (kd : KReg)
  /-- R125 -/
  | aese (bd : BReg) (ks : KReg) (bs : BReg)
  /-- R126 -/
  | aesem (ks : KReg) (xdst xsrc xn : XReg)
  /-- R141 -/
  | prf (bd : BReg) (ks : KReg) (bs : BReg)
  /-- R142 -/
  | prfm (ks : KReg) (xdst xdlen xsrc xslen : XReg)
  /-- R145 -/
  | ro (xd : XReg) (bkey bval : BReg)
  /-- R146 -/
  | rom (xdst xsrc xn : XReg) (bval : BReg)
  /-- R165 -/
  | pkexp (pd : PReg) (ks : KReg)
  /-- R166 -/
  | pclr (pd : PReg)
  /-- R167 -/
  | prpe (xd : XReg) (ps : PReg) (xs xn : XReg)
  /-- R168 -/
  | prpd (xd : XReg) (ps : PReg) (xs xn : XReg)
  /-- R169 -/
  | prpea (ps : PReg) (xdst xn : XReg)
  /-- R170 -/
  | prpda (ps : PReg) (xdst xn : XReg)
  /-- R192 -/
  | gnext (bd : BReg)
  /-- R193 -/
  | gseed (bs : BReg)
  /-- R201 -/
  | pinitb (prd : PrReg) (xn xb : XReg)
  /-- R202 -/
  | pinitl (prd : PrReg) (xn xb : XReg)
  /-- R204 -/
  | csize (xd : XReg) (prs : PrReg)
  /-- R205 -/
  | cszl (xd : XReg) (prs : PrReg)
  /-- R206 -/
  | cszr (xd : XReg) (prs : PrReg)
  /-- R210 -/
  | setup (sd : SReg) (prs : PrReg)
  /-- R212 -/
  | skset (sd : SReg) (prs : PrReg) (bprf bprp : BReg)
  /-- R215 -/
  | sclr (sd : SReg)
  /-- R216 -/
  | cinit (cd : CReg) (prs : PrReg) (xaddr : XReg)
  /-- R217 -/
  | cload (cd : CReg) (prs : PrReg) (xaddr : XReg)
  /-- R218 -/
  | cclr (cd : CReg)
  /-- R242 -/
  | oreenc (cd : CReg) (ss : SReg) (xmsg : XReg)
  /-- R244 -/
  | orecmp (xd : XReg) (ca cb : CReg)
  /-- R262 -/
  | obenc (cd : CReg) (ss : SReg) (xmsg : XReg)
  /-- R264 -/
  | obcmp (xd : XReg) (ca cb : CReg)
deriving DecidableEq, Repr

/-- What the host can do (00_scope.md R8). Indices of X and B are typed, so an index above 15
does not exist (93_implementation_defined.md I6; DEDUCED, log 9). -/
inductive HostTx where
  /-- `Issue(word32)`: execute one command. -/
  | issue (w : CommandWord)
  /-- `ReadX(i)`. -/
  | readX (i : XReg)
  /-- `WriteX(i, u64)`. -/
  | writeX (i : XReg) (v : XWord)
  /-- `ReadB(i)`. -/
  | readB (i : BReg)
  /-- `WriteB(i, u128)`. -/
  | writeB (i : BReg) (v : Block)
  /-- `ReadMem(addr, n)`. -/
  | readMem (addr n : Nat)
  /-- `WriteMem(addr, bytes)`. -/
  | writeMem (addr : Nat) (bytes : List Byte)
  /-- `ReadCR(n)`. -/
  | readCR (n : Nat)
  /-- `Reset()`. -/
  | reset
deriving DecidableEq, Repr

/-- The value a host transaction returns (00_scope.md R6, R8). WriteX, WriteB, WriteMem and Reset
return none. -/
inductive HostReply where
  /-- The result code that `Issue` returns. -/
  | code (c : Byte)
  /-- The value of `ReadX`. -/
  | scalar (v : XWord)
  /-- The value of `ReadB`. -/
  | block (v : Block)
  /-- The value of `ReadMem`. -/
  | bytes (bs : List Byte)
  /-- The value of `ReadCR`. -/
  | control (v : BitVec 32)
deriving DecidableEq, Repr

/-! The assembler (30_encoding.md R80 to R86). -/

/-- The mnemonics of 30_encoding.md R75 and the two pseudo-instructions of R84, R85. -/
inductive Mnemonic where
  | NOP | LI | LIH | MKB | XBH | XBL | LDB | STB
  | KGEN | KEXP | KEXPM | KCLR | AESE | AESEM
  | PRF | PRFM | RO | ROM
  | PKEXP | PCLR | PRPE | PRPD | PRPEA | PRPDA
  | GNEXT | GSEED
  | PINITB | PINITL | CSIZE | CSZL | CSZR | SETUP | SKSET | SCLR | CINIT | CLOAD | CCLR
  | OREENC | ORECMP | OBENC | OBCMP
  | LI64 | LB128
deriving DecidableEq, Repr

/-- The register files an operand can name (30_encoding.md R73, R81). -/
inductive RegisterFile where
  /-- scalar registers -/
  | x
  /-- block registers -/
  | b
  /-- key schedules -/
  | k
  /-- PRP round keys -/
  | p
  /-- Params -/
  | pr
  /-- SecretKeys -/
  | s
  /-- ciphertext descriptors -/
  | c
deriving DecidableEq, Repr

/-- An operand as written: a register name such as `pr3`, or an immediate (30_encoding.md R81,
R82). Nothing bounds the numbers here; `AsmLine.check` does. -/
inductive AsmOperand where
  /-- The name of register `n` of a file. -/
  | reg (file : RegisterFile) (n : Nat)
  /-- A number in decimal or hexadecimal. -/
  | imm (v : Nat)
deriving DecidableEq, Repr

/-- A line of assembly (30_encoding.md R80). -/
structure AsmLine where
  /-- The mnemonic. -/
  mnemonic : Mnemonic
  /-- The operands in the order of R75. -/
  operands : List AsmOperand
deriving DecidableEq, Repr

end Sys2Proof
end

