-- ==== Sys2Proof/Machine/State.lean ====
section
/-! DEFINITION. The state of the engine (10_state.md R20 to R36), the model's own fields for a run's
inputs, outputs and parameter, the machine after reset (R46, 70_reset_and_hazards.md R320, R321),
and the reasons a step can stop. -/

namespace Sys2Proof.Machine

/-- Lifecycle of a K, P or S entry (10_state.md R26): `Populated` is for ciphertext descriptors
only, so it is no value here (DEDUCED, log 14). -/
inductive KeyState where
  /-- code 0 -/
  | uninitialized
  /-- code 1 -/
  | initialized
  /-- code 3 -/
  | cleared
deriving DecidableEq, Repr

/-- Lifecycle of a ciphertext descriptor (10_state.md R26). -/
inductive CtState where
  /-- code 0 -/
  | uninitialized
  /-- code 1 -/
  | initialized
  /-- code 2 -/
  | populated
  /-- code 3 -/
  | cleared
deriving DecidableEq, Repr

/-- The scheme tag of a Params value (10_state.md R32). -/
inductive Scheme where
  /-- 0, BasicORE -/
  | basic
  /-- 1, BlockORE -/
  | block
deriving DecidableEq, Repr

/-- A Params value (10_state.md R32). Two are equal when all four fields are (R48). -/
structure Params where
  /-- `init`, 1 bit. -/
  init : Bool
  /-- `scheme`, 1 bit. -/
  scheme : Scheme
  /-- `nbits`, a `u32`. -/
  nbits : BitVec 32
  /-- `bp`, a `u32`: `out_blk_len` for BASIC, `block_len` for BLOCK. -/
  bp : BitVec 32
deriving DecidableEq, Repr

/-- The all-zero Params `(0,0,0,0)` (10_state.md R46). -/
def zeroParams : Params := { init := false, scheme := .basic, nbits := 0, bp := 0 }

/-- An expanded key: the AES round keys `rk[0..10]` (10_state.md R30). -/
abbrev ExpandedKey := Vector Block 11

/-- Key material that is all zero. -/
def zeroKey : ExpandedKey := Vector.replicate 11 0

/-- The three expanded keys of a PRP key set (10_state.md R31). -/
abbrev PrpKeys := Vector ExpandedKey 3

/-- PRP key material that is all zero. -/
def zeroPrpKeys : PrpKeys := Vector.replicate 3 zeroKey

/-- An entry of the key-schedule file K (10_state.md R30). -/
structure KeyEntry where
  /-- lifecycle -/
  st : KeyState
  /-- round keys -/
  rk : ExpandedKey
deriving DecidableEq, Repr

/-- An entry of the PRP round-key file P (10_state.md R31). -/
structure PrpEntry where
  /-- lifecycle -/
  st : KeyState
  /-- three expanded keys -/
  rk : PrpKeys
deriving DecidableEq, Repr

/-- An entry of the SecretKey file S (10_state.md R33). -/
structure SecretKey where
  /-- lifecycle -/
  st : KeyState
  /-- a copy of a Params value -/
  par : Params
  /-- the expanded PRF key -/
  prf : ExpandedKey
  /-- the expanded PRP key; all zero for BASIC -/
  prp : ExpandedKey
deriving DecidableEq, Repr

/-- An entry of the ciphertext-descriptor file C (10_state.md R34). -/
structure Ciphertext where
  /-- lifecycle -/
  st : CtState
  /-- a copy of a Params value -/
  par : Params
  /-- address of the ciphertext's first byte in the buffer memory -/
  base : XWord
deriving DecidableEq, Repr

/-- The counter generator G (10_state.md R35). -/
structure Generator where
  /-- `seeded`, 1 bit -/
  seeded : Bool
  /-- its expanded key -/
  rk : ExpandedKey
  /-- its 128-bit counter -/
  ctr : BitVec 128
deriving DecidableEq, Repr

/-- The buffer memory M (20_memory.md R50) as cells of address and byte, in the canonical form of
`Memory.wf` (Machine/Ops.lean): addresses strictly rising, no cell that holds what an unlisted
address reads as. -/
structure Memory where
  /-- the listed cells -/
  cells : List Host.Cell
deriving DecidableEq, Repr

/-- The state of the engine (10_state.md R20), then the model's own fields. -/
structure State where
  /-- `X[0..15]` (R21) -/
  x : Vector XWord 16
  /-- `B[0..15]` (R23) -/
  b : Vector Block 16
  /-- `K[0..15]` (R30) -/
  k : Vector KeyEntry 16
  /-- `P[0..15]` (R31) -/
  p : Vector PrpEntry 16
  /-- `PR[0..15]` (R32) -/
  pr : Vector Params 16
  /-- `S[0..15]` (R33) -/
  sk : Vector SecretKey 16
  /-- `C[0..15]` (R34) -/
  ct : Vector Ciphertext 16
  /-- `G` (R35) -/
  g : Generator
  /-- `RESULT` (R36) -/
  result : BitVec 8
  /-- `M` (20_memory.md R50) -/
  mem : Memory
  /-- The parameter `MEM_SIZE` (00_scope.md R9); nothing writes it (DESIGN CHOICE, log 2). At least
  16 after power-on (`Config.MemSize`) and ever after (`BuffersInBounds`). -/
  memSize : Nat
  /-- The host transactions still to be performed, oldest first (00_scope.md R6, R8; DESIGN CHOICE, log 3). -/
  inbox : List HostTx
  /-- The values transactions have returned, oldest first (00_scope.md R6; DESIGN CHOICE, log 4). -/
  replies : List HostReply
  /-- The answers the entropy oracle gives next: sixteen bytes as a block, or `none` for `fail`
  (00_scope.md R16; DESIGN CHOICE, log 5). -/
  entropy : List (Option Block)
  /-- How many `Entropy` requests have been made: the argument of the free value that answers
  where `entropy` has run out (DESIGN CHOICE, log 5). -/
  draws : Nat
deriving DecidableEq, Repr

/-- Reasons to stop with a fault. There is none: a failing command is a next state in which only
`RESULT` holds the code (60_exceptions.md R293), and there is no halted, locked or fatal state
(R295). Safe: nothing stops (DEDUCED, log 12). -/
inductive Fault where
deriving DecidableEq, Repr

/-- Reasons to refuse. -/
inductive Refusal where
  /-- Raised by an arm of `exec` for a command that has no meaning yet. Safe. No arm raises it. -/
  | notModelled (mnemonic : String)
  /-- Raised by the host port for `ReadMem` or `WriteMem` with a range that leaves M:
  93_implementation_defined.md I6 puts such a transaction outside the model. Safe (DEDUCED, log 8). -/
  | hostRangeOutsideMemory
deriving DecidableEq, Repr

/-- Every piece of the engine's state at the value of 10_state.md R46 (70_reset_and_hazards.md R320),
over the buffer memory `m` of `size` bytes, which R46 leaves unspecified. -/
def State.withResetValues (m : Memory) (size : Nat) : State where
  x := Vector.replicate 16 0
  b := Vector.replicate 16 0
  k := Vector.replicate 16 { st := .uninitialized, rk := zeroKey }
  p := Vector.replicate 16 { st := .uninitialized, rk := zeroPrpKeys }
  pr := Vector.replicate 16 zeroParams
  sk := Vector.replicate 16 { st := .uninitialized, par := zeroParams, prf := zeroKey, prp := zeroKey }
  ct := Vector.replicate 16 { st := .uninitialized, par := zeroParams, base := 0 }
  g := { seeded := false, rk := zeroKey, ctr := 0 }
  result := 0
  mem := m
  memSize := size
  inbox := []
  replies := []
  entropy := []
  draws := 0

/-- The machine after power-on with buffer memory `m` of `size` bytes, at least 16 (00_scope.md R9).
Power-on leaves M unspecified (70_reset_and_hazards.md R321): every `m` is a machine after power-on. -/
def State.powerOn (m : Memory) (size : Config.MemSize) : State := State.withResetValues m size

/-- The machine right after reset (10_state.md R46): power-on with nothing listed in memory (an
unlisted byte reads `0x00`, DESIGN CHOICE, log 1), the default `MEM_SIZE` (DESIGN CHOICE, log 2), and no
host transaction, reply or oracle answer yet (DESIGN CHOICE, logs 3, 4, 5). -/
def State.reset : State := State.powerOn { cells := [] } ⟨Config.memSizeDefault, by decide⟩

end Sys2Proof.Machine
end

