-- ==== Sys2Proof/Machine/Bytes.lean ====
section
/-! DEFINITION. Bytes, blocks and integers: the notation of 00_scope.md R10 to R14. -/

namespace Sys2Proof.Machine

/-- `BE(bytes)` (00_scope.md R14): the first byte is the most significant; 0 for no bytes. -/
def be (bytes : List Byte) : Nat := bytes.foldl (fun acc c => acc * 256 + c.toNat) 0

/-- `toBE(v, n)` (00_scope.md R14, 20_memory.md R54): byte `k` is
`v[8(n-1-k)+7 : 8(n-1-k)]`. -/
def toBE (v n : Nat) : List Byte :=
  (List.range n).map fun k => BitVec.ofNat 8 (v / 256 ^ (n - 1 - k))

/-- Byte `k` of a block, `b[127-8k : 120-8k]` for `k` = 0 to 15: byte 0 is the most significant
(00_scope.md R12). -/
def blockByte (b : Block) (k : Nat) : Byte := b.extractLsb' (120 - 8 * k) 8

/-- The sixteen bytes of a block, byte 0 first. -/
def blockBytes (b : Block) : List Byte := (List.range 16).map (blockByte b)

/-- The block whose bytes are these sixteen, byte 0 first. -/
def blockOfBytes (bytes : List Byte) : Block := BitVec.ofNat 128 (be bytes)

/-- `blk(n)` (00_scope.md R13): the block whose 128-bit value is `n`. -/
def blk (n : Nat) : Block := BitVec.ofNat 128 n

/-- `pair(i, p)` (00_scope.md R13): `i` in bits 127:64, `p` in bits 63:0. -/
def pair (i p : Nat) : Block := BitVec.ofNat 64 i ++ BitVec.ofNat 64 p

/-- The bytes `s[off .. off+n-1]` of a byte string. -/
def slice (s : List Byte) (off n : Nat) : List Byte := (s.drop off).take n

end Sys2Proof.Machine
end

