-- ==== Sys2Proof/Machine/Aes.lean ====
section
/-! DEFINITION. The AES-128 cipher, encryption direction only (41_block_cipher_core.md R110 to
R118): the key expansion and the cipher under an expanded key. The cipher's state is a block whose
byte `r + 4c` is in row `r`, column `c` (R110). -/

namespace Sys2Proof.Machine

/-- The S-box table of R111, its sixteen rows one under the other: row `Rx` holds its sixteen
entries, column `x0` first, so the entry for byte `v` is byte `v` from the left. -/
def sboxTable : BitVec 2048 :=
  0x637C777BF26B6FC53001672BFED7AB76#128 ++
    0xCA82C97DFA5947F0ADD4A2AF9CA472C0#128 ++
    0xB7FD9326363FF7CC34A5E5F171D83115#128 ++
    0x04C723C31896059A071280E2EB27B275#128 ++
    0x09832C1A1B6E5AA0523BD6B329E32F84#128 ++
    0x53D100ED20FCB15B6ACBBE394A4C58CF#128 ++
    0xD0EFAAFB434D338545F9027F503C9FA8#128 ++
    0x51A3408F929D38F5BCB6DA2110FFF3D2#128 ++
    0xCD0C13EC5F974417C4A77E3D645D1973#128 ++
    0x60814FDC222A908846EEB814DE5E0BDB#128 ++
    0xE0323A0A4906245CC2D3AC629195E479#128 ++
    0xE7C8376D8DD54EA96C56F4EA657AAE08#128 ++
    0xBA78252E1CA6B4C6E8DD741F4BBD8B8A#128 ++
    0x703EB5664803F60E613557B986C11D9E#128 ++
    0xE1F8981169D98E949B1E87E9CE5528DF#128 ++
    0x8CA1890DBFE6426841992D0FB054BB16#128

/-- `SBOX[v]` (R111). -/
def sbox (v : Byte) : Byte := sboxTable.extractLsb' (2040 - 8 * v.toNat) 8

/-- `SubBytes` (R112): every byte of the state through the S-box. -/
def subBytes (s : Block) : Block := blockOfBytes ((blockBytes s).map sbox)

/-- Where each byte of `ShiftRows(s)` comes from (R113, as it writes the permutation out):
`s'[r + 4c] = s[r + 4((c + r) mod 4)]`. -/
def shiftRowsSource : List Nat := [0, 5, 10, 15, 4, 9, 14, 3, 8, 13, 2, 7, 12, 1, 6, 11]

/-- `ShiftRows` (R113). -/
def shiftRows (s : Block) : Block := blockOfBytes (shiftRowsSource.map (blockByte s))

/-- `xtime` (R114): multiplication by 2 in GF(2^8) modulo `0x11B`. -/
def xtime (v : Byte) : Byte := if v.getLsbD 7 then (v <<< 1) ^^^ 0x1B else v <<< 1

/-- `3·v` of R114. -/
def times3 (v : Byte) : Byte := xtime v ^^^ v

/-- One column of `MixColumns` (R114). -/
def mixColumn (a0 a1 a2 a3 : Byte) : List Byte :=
  [ xtime a0 ^^^ times3 a1 ^^^ a2 ^^^ a3, a0 ^^^ xtime a1 ^^^ times3 a2 ^^^ a3,
    a0 ^^^ a1 ^^^ xtime a2 ^^^ times3 a3, times3 a0 ^^^ a1 ^^^ a2 ^^^ xtime a3 ]

/-- `MixColumns` (R114): column `c` is bytes `4c` to `4c+3`. -/
def mixColumns (s : Block) : Block :=
  blockOfBytes <| [0, 4, 8, 12].flatMap fun k =>
    mixColumn (blockByte s k) (blockByte s (k + 1)) (blockByte s (k + 2)) (blockByte s (k + 3))

/-- A round of R117: `MixColumns(ShiftRows(SubBytes(s))) xor rk`. -/
def aesRound (s rk : Block) : Block := mixColumns (shiftRows (subBytes s)) ^^^ rk

/-- The last round of R117: `ShiftRows(SubBytes(s)) xor rk`. -/
def aesFinalRound (s rk : Block) : Block := shiftRows (subBytes s) ^^^ rk

/-- `AES(rk, b)` (R117), the document's `EncryptBlock`. -/
def aes (rk : ExpandedKey) (b : Block) : Block :=
  aesFinalRound
    (([1, 2, 3, 4, 5, 6, 7, 8, 9] : List (Fin 11)).foldl (fun s r => aesRound s rk[r]) (b ^^^ rk[0]))
    rk[10]

/-- Word `i` (0 to 3) of a round key: its bytes `4i` to `4i+3`, first byte most significant. -/
def keyWord (k : Block) (i : Nat) : KeyWord := k.extractLsb' (96 - 32 * i) 32

/-- The word whose four bytes are these. -/
def wordOfBytes (a0 a1 a2 a3 : Byte) : KeyWord := a0 ++ a1 ++ a2 ++ a3

/-- The step of R116 at `i mod 4 = 0`: rotate left one byte, substitute every byte, add the round
constant to the first byte. -/
def scheduleCore (t : KeyWord) (rcon : Byte) : KeyWord :=
  wordOfBytes (sbox (t.extractLsb' 16 8) ^^^ rcon) (sbox (t.extractLsb' 8 8))
    (sbox (t.extractLsb' 0 8)) (sbox (t.extractLsb' 24 8))

/-- Round key `r` from round key `r-1`: the four words `w[4r] .. w[4r+3]` of R116. -/
def nextRoundKey (k : Block) (rcon : Byte) : Block :=
  let w4 := keyWord k 0 ^^^ scheduleCore (keyWord k 3) rcon
  let w5 := keyWord k 1 ^^^ w4
  let w6 := keyWord k 2 ^^^ w5
  let w7 := keyWord k 3 ^^^ w6
  w4 ++ w5 ++ w6 ++ w7

/-- `KeyExpansion(key)` (R116) with the round constants of R115, the document's `Expand`; one round
key after another (DEDUCED, log 16). -/
def keyExpansion (key : Block) : ExpandedKey :=
  let r1 := nextRoundKey key 0x01
  let r2 := nextRoundKey r1 0x02
  let r3 := nextRoundKey r2 0x04
  let r4 := nextRoundKey r3 0x08
  let r5 := nextRoundKey r4 0x10
  let r6 := nextRoundKey r5 0x20
  let r7 := nextRoundKey r6 0x40
  let r8 := nextRoundKey r7 0x80
  let r9 := nextRoundKey r8 0x1B
  let r10 := nextRoundKey r9 0x36
  #v[key, r1, r2, r3, r4, r5, r6, r7, r8, r9, r10]

end Sys2Proof.Machine
end

