-- ==== Sys2Proof/Machine/Ops.lean ====
section
/-! DEFINITION. The operations every command is made of: buffer memory (20_memory.md R50 to R55),
the register and object files (10_state.md), ending a command (00_scope.md R15, 60_exceptions.md
R290, R293), the entropy oracle (00_scope.md R16), and the buffer moves of the batched commands. -/

namespace Sys2Proof.Machine

/-! ## Buffer memory -/

/-- What an unlisted address reads as. The spec leaves M after power-on unspecified
(70_reset_and_hazards.md R321); DESIGN CHOICE `0x00`, log 1. -/
def unlistedByte : Byte := 0x00

/-- The byte that a list of cells holds at an address. -/
def readCells : List Host.Cell → Nat → Byte
  | [], _ => unlistedByte
  | (c, v) :: rest, a => if a = c then v else readCells rest a

/-- `M[a]` (20_memory.md R50). -/
def Memory.read (m : Memory) (a : Nat) : Byte := readCells m.cells a

/-- Cells with one byte written, in the canonical form: sorted, and no cell that holds what an
unlisted address reads as. -/
def writeCells : List Host.Cell → Nat → Byte → List Host.Cell
  | [], a, v => if v = unlistedByte then [] else [(a, v)]
  | (c, u) :: rest, a, v =>
    if a < c then if v = unlistedByte then (c, u) :: rest else (a, v) :: (c, u) :: rest
    else if a = c then if v = unlistedByte then rest else (a, v) :: rest
    else (c, u) :: writeCells rest a v

/-- `M[a] <- v`. -/
def Memory.write (m : Memory) (a : Nat) (v : Byte) : Memory := { cells := writeCells m.cells a v }

/-- Every cell lies above `low`, addresses rise strictly, no cell holds the unlisted byte. -/
def cellsOrdered : Nat → List Host.Cell → Bool
  | _, [] => true
  | low, (c, v) :: rest => decide (low ≤ c) && decide (v ≠ unlistedByte) && cellsOrdered (c + 1) rest

/-- The canonical form of the buffer memory. -/
def Memory.wf (m : Memory) : Bool := cellsOrdered 0 m.cells

/-- `M[a .. a+n-1] <- s` for an `n`-byte string `s` (00_scope.md R15); writes nothing when `n = 0`. -/
def Memory.writeBytes (m : Memory) (a : Nat) : List Byte → Memory
  | [] => m
  | v :: rest => (m.write a v).writeBytes (a + 1) rest

/-- `MemBytes(a, n)`: the byte string `M[a .. a+n-1]` (00_scope.md R15). -/
def Memory.bytes (m : Memory) (a n : Nat) : List Byte := (List.range n).map fun k => m.read (a + k)

/-- `MemRead(a, n)` (20_memory.md R53): the byte at the lowest address is the most significant. -/
def Memory.readBE (m : Memory) (a n : Nat) : Nat := be (m.bytes a n)

/-- `MemWrite(a, n, v)` (20_memory.md R54). -/
def Memory.writeBE (m : Memory) (a n v : Nat) : Memory := m.writeBytes a (toBE v n)

/-- `MemRead(a, 16)` as a block: byte `k` of the block is `M[a+k]` (20_memory.md R53). -/
def Memory.readBlock (m : Memory) (a : Nat) : Block := blk (m.readBE a 16)

/-- `MemWrite(a, 16, v)` of a block. -/
def Memory.writeBlock (m : Memory) (a : Nat) (v : Block) : Memory := m.writeBE a 16 v.toNat

/-- `for i = 0 to n-1: f i`, in this order. -/
def forUpTo (n : Nat) (f : Nat → Memory → Memory) (m : Memory) : Memory :=
  (List.range n).foldl (fun acc i => f i acc) m

/-! ## Register and object files (10_state.md R21 to R34)

A command's operand fields select entries; every index is valid (30_encoding.md R73). -/

/-- `X[i]`. -/
def State.getX (s : State) (i : XReg) : XWord := s.x[i]
/-- `X[i] <- v`. -/
def State.setX (s : State) (i : XReg) (v : XWord) : State := { s with x := s.x.set i v }
/-- `B[i]`. -/
def State.getB (s : State) (i : BReg) : Block := s.b[i]
/-- `B[i] <- v`. -/
def State.setB (s : State) (i : BReg) (v : Block) : State := { s with b := s.b.set i v }
/-- `K[i]`. -/
def State.getK (s : State) (i : KReg) : KeyEntry := s.k[i]
/-- `K[i] <- v`. -/
def State.setK (s : State) (i : KReg) (v : KeyEntry) : State := { s with k := s.k.set i v }
/-- `P[i]`. -/
def State.getP (s : State) (i : PReg) : PrpEntry := s.p[i]
/-- `P[i] <- v`. -/
def State.setP (s : State) (i : PReg) (v : PrpEntry) : State := { s with p := s.p.set i v }
/-- `PR[i]`. -/
def State.getPR (s : State) (i : PrReg) : Params := s.pr[i]
/-- `PR[i] <- v`. -/
def State.setPR (s : State) (i : PrReg) (v : Params) : State := { s with pr := s.pr.set i v }
/-- `S[i]`. -/
def State.getS (s : State) (i : SReg) : SecretKey := s.sk[i]
/-- `S[i] <- v`. -/
def State.setS (s : State) (i : SReg) (v : SecretKey) : State := { s with sk := s.sk.set i v }
/-- `C[i]`. -/
def State.getC (s : State) (i : CReg) : Ciphertext := s.ct[i]
/-- `C[i] <- v`. -/
def State.setC (s : State) (i : CReg) (v : Ciphertext) : State := { s with ct := s.ct.set i v }
/-- `G <- v` (R35). -/
def State.setG (s : State) (v : Generator) : State := { s with g := v }
/-- `M <- m`. -/
def State.setMem (s : State) (m : Memory) : State := { s with mem := m }

/-! ## Ending a command -/

/-- The result codes of 60_exceptions.md R290. -/
inductive ResultCode where
  /-- 0, "a success value" -/
  | ok
  /-- 1, `E_RANDOMNESS` -/
  | randomness
  /-- 2, `E_PARAM` -/
  | param
  /-- 3, `E_KEY_NOT_INIT` -/
  | keyNotInit
  /-- 4, `E_CT_NOT_INIT` -/
  | ctNotInit
  /-- 5, `E_PARAMS_MISMATCH` -/
  | paramsMismatch
  /-- 6, `E_UNSUPPORTED` -/
  | unsupported
  /-- 7, `E_ALLOC` -/
  | alloc
  /-- 8, `E_LENGTH` -/
  | length
  /-- 9, `E_ADDR` -/
  | addr
  /-- 10, `E_ILLEGAL` -/
  | illegal
deriving DecidableEq, Repr

/-- The 8-bit number of a result code (60_exceptions.md R290). -/
def resultNumber : ResultCode → BitVec 8
  | .ok => 0
  | .randomness => 1
  | .param => 2
  | .keyNotInit => 3
  | .ctNotInit => 4
  | .paramsMismatch => 5
  | .unsupported => 6
  | .alloc => 7
  | .length => 8
  | .addr => 9
  | .illegal => 10

/-- `raise E_NAME` (00_scope.md R15): the command ends, `RESULT` holds the code, and no other state
is written by it (60_exceptions.md R293). It is the engine's whole exception mechanism: no control
transfer, nothing saved, no handler, nothing to return from (R295). -/
def State.raise (s : State) (c : ResultCode) : State := { s with result := resultNumber c }

/-- The end of a command's pseudocode: `RESULT <- OK` (00_scope.md R15). -/
def State.done (s : State) : State := { s with result := resultNumber .ok }

/-! ## The entropy oracle (00_scope.md R16) -/

/-- The answer the oracle gives to the next request: the first of the listed answers, and where none
is listed the free value of this request's number (DESIGN CHOICE, log 5). -/
def State.nextAnswer (s : State) : Option Block :=
  match s.entropy with
  | [] => Config.entropyBeyondScript s.draws
  | answer :: _ => answer

/-- The state after one request: the answer is used up, whether the command then succeeds or not
(DEDUCED, log 6). -/
def State.afterDraw (s : State) : State :=
  { s with entropy := s.entropy.tail, draws := s.draws + 1 }

/-! ## Buffer moves of the batched commands, in index order (DEDUCED, log 17) -/

/-- The loop of AESEM (41_block_cipher_core.md R126):
`MemWrite(dst + 16i, 16, AES(rk, MemRead(src + 16i, 16)))`. -/
def encryptBlocks (rk : ExpandedKey) (dst src n : Nat) : Memory → Memory :=
  forUpTo n fun i m => m.writeBlock (dst + 16 * i) (aes rk (m.readBlock (src + 16 * i)))

/-- The loop of ROM (42_prf_random_oracle.md R146): `M[dst + i] <- AES(rk, MemRead(src + 16i, 16))[0]`. -/
def oracleBytes (rk : ExpandedKey) (dst src n : Nat) : Memory → Memory :=
  forUpTo n fun i m =>
    m.write (dst + i) (((aes rk (m.readBlock (src + 16 * i))).extractLsb' 0 1).zeroExtend 8)

/-- The loop of PRPEA and PRPDA (43_prp_feistel.md R169, R171): entry `v`, two bytes big-endian, is
`f v`. -/
def writeTable (f : Nat → Nat) (dst n : Nat) : Memory → Memory :=
  forUpTo n fun v m => m.writeBE (dst + 2 * v) 2 (f v)

end Sys2Proof.Machine
end

