-- ==== Sys2Proof/Machine/Operands.lean ====
section
/-! DEFINITION. Operand forms: an X register as an unsigned number (an address, a length, a count, a
message; 20_memory.md R52), the range test of an access (R52) and the overlap test of two ranges
(R60). -/

namespace Sys2Proof.Machine

/-- `X[i]` as an unbounded natural: sums and products of it are exact (00_scope.md R10,
93_implementation_defined.md I16). -/
def State.natX (s : State) (i : XReg) : Nat := (s.getX i).toNat

/-- An access to `n` bytes at `a` is in range (20_memory.md R52): `a + n <= MEM_SIZE`, without
wrap-around. -/
abbrev State.inRange (s : State) (a n : Nat) : Prop := a + n ≤ s.memSize

/-- `range(a, n)` and `range(c, m)` share an address (20_memory.md R60). -/
abbrev rangesOverlap (a n c m : Nat) : Prop := 0 < n ∧ 0 < m ∧ a < c + m ∧ c < a + n

/-- A compare result -1, 0 or +1 as a 64-bit two's complement value (00_scope.md R11,
46_basic_ore.md R244). -/
def compareWord (r : Int) : XWord := BitVec.ofInt 64 r

end Sys2Proof.Machine
end

