-- ==== Sys2Proof/Machine/Prf.lean ====
section
/-! DEFINITION. The fixed-mode PRF and the ideal-cipher random oracle (42_prf_random_oracle.md R140,
R144). -/

namespace Sys2Proof.Machine

/-- `PRFfix(rk, b) = AES(rk, b)` (R140). -/
def prfFix (rk : ExpandedKey) (b : Block) : Block := aes rk b

/-- `RO(key, value)` (R144): bit 0 of `AES(KeyExpansion(value), key)`. The argument called `key` is
the plaintext and the argument called `value` is the cipher key. -/
def randomOracle (key value : Block) : BitVec 1 := (aes (keyExpansion value) key).extractLsb' 0 1

end Sys2Proof.Machine
end

