-- ==== Sys2Proof/Machine/Prp.lean ====
section
/-! DEFINITION. The three-round Feistel permutation (43_prp_feistel.md R160 to R164, R173), on
naturals. -/

namespace Sys2Proof.Machine

/-- `PRPKeyExpand(rk)` (R160): three expanded keys from the encryptions of `blk(0)`, `blk(1)`,
`blk(2)`. -/
def prpKeyExpand (rk : ExpandedKey) : PrpKeys :=
  #v[keyExpansion (aes rk (blk 0)), keyExpansion (aes rk (blk 1)), keyExpansion (aes rk (blk 2))]

/-- `Round(rk_i, L, R, h)` (R162). -/
def prpRound (rk : ExpandedKey) (h : Nat) (lr : Nat × Nat) : Nat × Nat :=
  (lr.2, lr.1 ^^^ ((prfFix rk (blk lr.2)).toNat % 2 ^ h))

/-- `PRPfwd(keys, x, n)` (R163). -/
def prpFwd (keys : PrpKeys) (x n : Nat) : Nat :=
  let h := n / 2
  let lr := prpRound keys[2] h (prpRound keys[1] h (prpRound keys[0] h (x >>> h, x % 2 ^ h)))
  (lr.1 <<< h) ||| lr.2

/-- `PRPinv(keys, y, n)` (R164): the halves swapped on entry and on exit, the same round function,
the keys in reverse order. -/
def prpInv (keys : PrpKeys) (y n : Nat) : Nat :=
  let h := n / 2
  let rl := prpRound keys[0] h (prpRound keys[1] h (prpRound keys[2] h (y % 2 ^ h, y >>> h)))
  (rl.2 <<< h) ||| rl.1

/-- The widths the single-value forms accept (R173): even and at most 64. -/
abbrev prpWidthOk (n : Nat) : Prop := n % 2 = 0 ∧ n ≤ Config.prpMaxBits

/-- The widths the full-domain forms accept (R173): even and at most 16. -/
abbrev prpAllWidthOk (n : Nat) : Prop := n % 2 = 0 ∧ n ≤ Config.prpAllMaxBits

end Sys2Proof.Machine
end

