-- ==== Sys2Proof/Machine/Ore.lean ====
section
/-! DEFINITION. Sizes of ciphertexts (45_ore_objects.md R203), BasicORE (46_basic_ore.md R241, R243)
and BlockORE (47_block_ore.md R260, R261, R263), on byte strings. -/

namespace Sys2Proof.Machine

/-! ## Sizes (R203) -/

/-- `len(p)` of BASIC Params: `ceil(nbits * bp / 8)`. -/
def basicLen (nbits obl : Nat) : Nat := divUp (nbits * obl) 8

/-- `nblocks(p) = ceil(nbits / bp)`. -/
def nblocks (nbits bl : Nat) : Nat := divUp nbits bl

/-- `W(p) = 16 + ceil(nbits / 8)`, the width of one record of the left component. -/
def recordWidth (nbits : Nat) : Nat := 16 + divUp nbits 8

/-- `leftlen(p) = nblocks(p) * W(p)`. -/
def leftLen (nbits bl : Nat) : Nat := nblocks nbits bl * recordWidth nbits

/-- `V(p) = ceil(2^bp / 8)`, the bytes of one right vector. -/
def vectorBytes (bl : Nat) : Nat := divUp (2 ^ bl) 8

/-- `rightlen(p) = 16 + nblocks(p) * V(p)`. -/
def rightLen (nbits bl : Nat) : Nat := 16 + nblocks nbits bl * vectorBytes bl

/-- `total(p)`. -/
def totalLen (p : Params) : Nat :=
  match p.scheme with
  | .basic => basicLen p.nbits.toNat p.bp.toNat
  | .block => leftLen p.nbits.toNat p.bp.toNat + rightLen p.nbits.toNat p.bp.toNat

/-! ## BasicORE -/

/-- The loop of `BasicEncrypt` (R241) for the last `left` bits of the message: `i = nbits - left`,
with the prefix and the accumulator so far. -/
def basicEncryptLoop (prf : ExpandedKey) (nbits obl m : Nat) : Nat → Nat → Nat → Nat
  | 0, _, acc => acc
  | left + 1, prefix_, acc =>
    let i := nbits - (left + 1)
    let bit := (m >>> (nbits - 1 - i)) % 2
    let y := (prfFix prf (pair i prefix_)).toNat
    let block := (y % 2 ^ obl + bit) % 2 ^ obl
    basicEncryptLoop prf nbits obl m left (((prefix_ <<< 1) ||| bit) % 2 ^ 64)
      (acc ||| (block <<< ((nbits - i - 1) * obl)))

/-- `BasicEncrypt(prf, nbits, obl, msg)` (R241). -/
def basicEncrypt (prf : ExpandedKey) (nbits obl msg : Nat) : List Byte :=
  toBE (basicEncryptLoop prf nbits obl (msg % 2 ^ nbits) nbits 0 0) (basicLen nbits obl)

/-- The loop of `BasicCompare` (R243) for the last `left` blocks, of which the first is compared
first: `sh = (left - 1) * obl`. Difference 1 gives +1, any other nonzero difference -1
(90_conflicts.md C1). -/
def basicCompareLoop (obl va vb : Nat) : Nat → Int
  | 0 => 0
  | left + 1 =>
    let sh := left * obl
    let d := ((va >>> sh) % 2 ^ obl + 2 ^ obl - (vb >>> sh) % 2 ^ obl) % 2 ^ obl
    if d ≠ 0 then if d = 1 then 1 else -1 else basicCompareLoop obl va vb left

/-- `BasicCompare(nbits, obl, ca, cb)` (R243). -/
def basicCompare (nbits obl : Nat) (ca cb : List Byte) : Int :=
  basicCompareLoop obl (be ca) (be cb) nbits

/-! ## BlockORE -/

/-- What one ORE block contributes to a ciphertext (R260, R261): its left key value, `pix`, and its
right vector. -/
structure OreRecord where
  /-- `lk`, the 16-byte left key value -/
  key : Block
  /-- the permuted chunk value -/
  pix : Nat
  /-- the comparison vector, slot `j` in bit `j` -/
  vec : Nat
deriving DecidableEq, Repr

/-- `pair(i, ((prefix << bl) or x) mod 2^64)`, the PRF input of slot `x` of block `i` (R261). -/
def slotInput (i prefix_ bl x : Nat) : Block := pair i (((prefix_ <<< bl) ||| x) % 2 ^ 64)

/-- Bit `j` of a right vector (R261 step 4): `[PRPinv(P, j, bl) <= v] xor RO(kj, nonce)`. -/
def slotBit (prf : ExpandedKey) (keys : PrpKeys) (nonce : Block) (bl i prefix_ v j : Nat) : Nat :=
  (if prpInv keys j bl ≤ v then 1 else 0) ^^^
    (randomOracle (prfFix prf (slotInput i prefix_ bl j)) nonce).toNat

/-- Block `i` of `BlockEncrypt` (R261 steps 1 to 4), for chunk value `v` under a prefix. -/
def blockRecord (prf prp : ExpandedKey) (nonce : Block) (bl i prefix_ v : Nat) : OreRecord :=
  let keys := prpKeyExpand (keyExpansion (aes prp (pair i prefix_)))
  let pix := prpFwd keys v bl
  { key := prfFix prf (slotInput i prefix_ bl pix)
    pix := pix
    vec := (List.range (2 ^ bl)).foldl
      (fun vec j => vec ||| (slotBit prf keys nonce bl i prefix_ v j <<< j)) 0 }

/-- The records of the last `left` ORE blocks, most significant chunk first (R261): `i = nb - left`,
chunk `v = (m >> ((nb-1-i) * bl)) mod 2^bl`. -/
def blockRecords (prf prp : ExpandedKey) (nonce : Block) (bl nb m : Nat) : Nat → Nat → List OreRecord
  | 0, _ => []
  | left + 1, prefix_ =>
    let v := (m >>> (left * bl)) % 2 ^ bl
    blockRecord prf prp nonce bl (nb - (left + 1)) prefix_ v ::
      blockRecords prf prp nonce bl nb m left (((prefix_ <<< bl) ||| v) % 2 ^ 64)

/-- The bytes of a record of the left component (R260): key value, `pix` in `ceil(bl/8)` bytes, zero
fill to the record's width (DEDUCED, log 15). -/
def leftRecordBytes (nbits bl : Nat) (r : OreRecord) : List Byte :=
  toBE r.key.toNat 16 ++ toBE r.pix (divUp bl 8) ++
    List.replicate (recordWidth nbits - 16 - divUp bl 8) 0

/-- `BlockEncrypt(prf, prp, nbits, bl, msg, nonce)` (R261): the left and the right component. -/
def blockEncrypt (prf prp : ExpandedKey) (nbits bl msg : Nat) (nonce : Block) : List Byte × List Byte :=
  let records := blockRecords prf prp nonce bl (nblocks nbits bl) (msg % 2 ^ nbits) (nblocks nbits bl) 0
  (records.flatMap (leftRecordBytes nbits bl),
    toBE nonce.toNat 16 ++ records.flatMap fun r => toBE r.vec (vectorBytes bl))

/-- What `BlockCompare` decides at the first mismatching block `i` (R263): `none` for a stored `pix`
outside `[0, 2^bl)`. -/
def blockDecide (nbits bl i : Nat) (leftA rightB : List Byte) : Option Int :=
  let w := recordWidth nbits
  let v := vectorBytes bl
  let pix := be (slice leftA (i * w + 16) (divUp bl 8))
  if 2 ^ bl ≤ pix then none
  else
    let vec := be (slice rightB (16 + i * v) v)
    let mask := randomOracle (blockOfBytes (slice leftA (i * w) 16)) (blockOfBytes (slice rightB 0 16))
    if (vec >>> pix) % 2 ^^^ mask.toNat = 1 then some (-1) else some 1

/-- The scan of `BlockCompare` (R263) over the last `left` of `nb` blocks: only the 16-byte key
values are compared for equality. -/
def blockCompareLoop (nbits bl nb : Nat) (leftA leftB rightB : List Byte) : Nat → Option Int
  | 0 => some 0
  | left + 1 =>
    let i := nb - (left + 1)
    let w := recordWidth nbits
    if slice leftA (i * w) 16 ≠ slice leftB (i * w) 16 then blockDecide nbits bl i leftA rightB
    else blockCompareLoop nbits bl nb leftA leftB rightB left

/-- `BlockCompare(nbits, bl, left_a, right_a, left_b, right_b)` (R263); `none` is its `E_PARAM`.
`right_a` is not used. -/
def blockCompare (nbits bl : Nat) (leftA leftB rightB : List Byte) : Option Int :=
  blockCompareLoop nbits bl (nblocks nbits bl) leftA leftB rightB (nblocks nbits bl)

end Sys2Proof.Machine
end

