-- ==== Sys2Proof/Machine/Objects.lean ====
section
/-! DEFINITION. The commands on Params, SecretKeys and ciphertext descriptors (45_ore_objects.md R201
to R219). -/

namespace Sys2Proof.Machine

/-- `PINITB prd, xn, xb` (R201). -/
def execPinitb (prd : PrReg) (xn xb : XReg) (s : State) : Host.Outcome State Fault Refusal :=
  .next <|
    let n := s.natX xn
    let bp := s.natX xb
    if 2 ^ 32 ≤ n ∨ 2 ^ 32 ≤ bp then s.raise .param
    else if bp < Config.outBlkMin ∨ Config.outBlkMax < bp then s.raise .param
    else
      (s.setPR prd
        { init := true, scheme := .basic, nbits := BitVec.ofNat 32 n, bp := BitVec.ofNat 32 bp }).done

/-- `PINITL prd, xn, xb` (R202): the third check refuses a `pix` that does not fit its field. -/
def execPinitl (prd : PrReg) (xn xb : XReg) (s : State) : Host.Outcome State Fault Refusal :=
  .next <|
    let n := s.natX xn
    let bp := s.natX xb
    if 2 ^ 32 ≤ n ∨ 2 ^ 32 ≤ bp then s.raise .param
    else if bp < Config.blockLenMin ∨ Config.blockLenMax < bp then s.raise .param
    else if divUp n 8 < divUp bp 8 then s.raise .param
    else
      (s.setPR prd
        { init := true, scheme := .block, nbits := BitVec.ofNat 32 n, bp := BitVec.ofNat 32 bp }).done

/-- `CSIZE xd, prs` (R204). -/
def execCsize (xd : XReg) (prs : PrReg) (s : State) : Host.Outcome State Fault Refusal :=
  .next <|
    if (s.getPR prs).init = false then s.raise .param
    else (s.setX xd (BitVec.ofNat 64 (totalLen (s.getPR prs)))).done

/-- CSZL and CSZR (R205, R206): a length of BLOCK Params into `X[xd]`. -/
def State.blockSize (s : State) (len : Nat → Nat → Nat) (xd : XReg) (prs : PrReg) : State :=
  if (s.getPR prs).init = false then s.raise .param
  else if (s.getPR prs).scheme ≠ .block then s.raise .param
  else (s.setX xd (BitVec.ofNat 64 (len (s.getPR prs).nbits.toNat (s.getPR prs).bp.toNat))).done

/-- `CSZL xd, prs` (R205). -/
def execCszl (xd : XReg) (prs : PrReg) (s : State) : Host.Outcome State Fault Refusal :=
  .next (s.blockSize leftLen xd prs)

/-- `CSZR xd, prs` (R206). -/
def execCszr (xd : XReg) (prs : PrReg) (s : State) : Host.Outcome State Fault Refusal :=
  .next (s.blockSize rightLen xd prs)

/-- `S[sd]` set up with Params and keys (R210, R212): the second key is expanded for BLOCK Params
only. -/
def State.setupKey (s : State) (sd : SReg) (par : Params) (prf prp : Block) : State :=
  s.setS sd
    { st := .initialized, par := par, prf := keyExpansion prf
      prp := if par.scheme = .block then keyExpansion prp else zeroKey }

/-- `SETUP sd, prs` (R210): one `Entropy` request for BASIC, a second one for BLOCK; the PRF key is
drawn first. -/
def execSetup (sd : SReg) (prs : PrReg) (s : State) : Host.Outcome State Fault Refusal :=
  .next <|
    if (s.getPR prs).init = false then s.raise .param
    else
      match s.nextAnswer with
      | none => s.afterDraw.raise .randomness
      | some e1 =>
        if (s.getPR prs).scheme ≠ .block then (s.afterDraw.setupKey sd (s.getPR prs) e1 0).done
        else
          match s.afterDraw.nextAnswer with
          | none => s.afterDraw.afterDraw.raise .randomness
          | some e2 => (s.afterDraw.afterDraw.setupKey sd (s.getPR prs) e1 e2).done

/-- `SKSET sd, prs, bprf, bprp` (R212). -/
def execSkset (sd : SReg) (prs : PrReg) (bprf bprp : BReg) (s : State) : Host.Outcome State Fault Refusal :=
  .next <|
    if (s.getPR prs).init = false then s.raise .param
    else (s.setupKey sd (s.getPR prs) (s.getB bprf) (s.getB bprp)).done

/-- `SCLR sd` (R215). -/
def execSclr (sd : SReg) (s : State) : Host.Outcome State Fault Refusal :=
  .next <|
    if (s.getS sd).st ≠ .initialized then s.raise .keyNotInit
    else (s.setS sd { st := .cleared, par := zeroParams, prf := zeroKey, prp := zeroKey }).done

/-- CINIT and CLOAD (R216, R217): bind a descriptor to a range of M, touching no byte. -/
def State.bindCiphertext (s : State) (st : CtState) (cd : CReg) (prs : PrReg) (xaddr : XReg) : State :=
  if (s.getPR prs).init = false then s.raise .param
  else if ¬ s.inRange (s.natX xaddr) (totalLen (s.getPR prs)) then s.raise .alloc
  else (s.setC cd { st := st, par := s.getPR prs, base := s.getX xaddr }).done

/-- `CINIT cd, prs, xaddr` (R216). -/
def execCinit (cd : CReg) (prs : PrReg) (xaddr : XReg) (s : State) : Host.Outcome State Fault Refusal :=
  .next (s.bindCiphertext .initialized cd prs xaddr)

/-- `CLOAD cd, prs, xaddr` (R217). -/
def execCload (cd : CReg) (prs : PrReg) (xaddr : XReg) (s : State) : Host.Outcome State Fault Refusal :=
  .next (s.bindCiphertext .populated cd prs xaddr)

/-- A descriptor that hosts a ciphertext: `st ∈ {Initialized, Populated}` (R218, R242, R262). -/
abbrev ctUsable (st : CtState) : Prop := st = .initialized ∨ st = .populated

/-- `CCLR cd` (R218): the whole range is zeroed, then the descriptor. -/
def execCclr (cd : CReg) (s : State) : Host.Outcome State Fault Refusal :=
  .next <|
    if ¬ ctUsable (s.getC cd).st then s.raise .ctNotInit
    else
      let c := s.getC cd
      ((s.setMem (s.mem.writeBytes c.base.toNat (List.replicate (totalLen c.par) 0))).setC cd
        { st := .cleared, par := zeroParams, base := 0 }).done

end Sys2Proof.Machine
end

