-- ==== Sys2Proof/Machine/BasicOre.lean ====
section
/-! DEFINITION. The commands of BasicORE (46_basic_ore.md R242, R244). -/

namespace Sys2Proof.Machine

/-- `OREENC cd, ss, xmsg` (R242). -/
def execOreenc (cd : CReg) (ss : SReg) (xmsg : XReg) (s : State) : Host.Outcome State Fault Refusal :=
  .next <|
    let key := s.getS ss
    let c := s.getC cd
    if key.st ≠ .initialized then s.raise .keyNotInit
    else if ¬ ctUsable c.st then s.raise .ctNotInit
    else if key.par ≠ c.par then s.raise .paramsMismatch
    else if c.par.scheme ≠ .basic then s.raise .param
    else if 64 < c.par.nbits.toNat then s.raise .unsupported
    else
      let bytes := basicEncrypt key.prf c.par.nbits.toNat c.par.bp.toNat (s.natX xmsg)
      ((s.setMem (s.mem.writeBytes c.base.toNat bytes)).setC cd { c with st := .populated }).done

/-- `ORECMP xd, ca, cb` (R244). -/
def execOrecmp (xd : XReg) (ca cb : CReg) (s : State) : Host.Outcome State Fault Refusal :=
  .next <|
    let a := s.getC ca
    let b := s.getC cb
    if a.st ≠ .populated ∨ b.st ≠ .populated then s.raise .ctNotInit
    else if a.par ≠ b.par then s.raise .paramsMismatch
    else if a.par.scheme ≠ .basic then s.raise .param
    else
      let nbits := a.par.nbits.toNat
      let obl := a.par.bp.toNat
      let n := basicLen nbits obl
      let r := basicCompare nbits obl (s.mem.bytes a.base.toNat n) (s.mem.bytes b.base.toNat n)
      (s.setX xd (compareWord r)).done

end Sys2Proof.Machine
end

