-- ==== Sys2Proof/Machine/BlockCipher.lean ====
section
/-! DEFINITION. The commands of BlockCipherCore (41_block_cipher_core.md R120 to R127). -/

namespace Sys2Proof.Machine

/-- `K[kd]` after an expansion of `key`: the pair of writes `K[kd].rk <- KeyExpansion(key);
K[kd].st <- Initialized`. -/
def State.expandInto (s : State) (kd : KReg) (key : Block) : State :=
  s.setK kd { st := .initialized, rk := keyExpansion key }

/-- `KGEN kd` (R120): one `Entropy` request. -/
def execKgen (kd : KReg) (s : State) : Host.Outcome State Fault Refusal :=
  .next <|
    match s.nextAnswer with
    | none => s.afterDraw.raise .randomness
    | some e => (s.afterDraw.expandInto kd e).done

/-- `KEXP kd, bs` (R121). -/
def execKexp (kd : KReg) (bs : BReg) (s : State) : Host.Outcome State Fault Refusal :=
  .next (s.expandInto kd (s.getB bs)).done

/-- `KEXPM kd, xa, xlen` (R122): the length is checked before the address. -/
def execKexpm (kd : KReg) (xa xlen : XReg) (s : State) : Host.Outcome State Fault Refusal :=
  .next <|
    if s.natX xlen ≠ 16 then s.raise .length
    else if ¬ s.inRange (s.natX xa) 16 then s.raise .addr
    else (s.expandInto kd (s.mem.readBlock (s.natX xa))).done

/-- `KCLR kd` (R124). -/
def execKclr (kd : KReg) (s : State) : Host.Outcome State Fault Refusal :=
  .next <|
    if (s.getK kd).st ≠ .initialized then s.raise .keyNotInit
    else (s.setK kd { st := .cleared, rk := zeroKey }).done

/-- `AESE bd, ks, bs` (R125). -/
def execAese (bd : BReg) (ks : KReg) (bs : BReg) (s : State) : Host.Outcome State Fault Refusal :=
  .next <|
    if (s.getK ks).st ≠ .initialized then s.raise .keyNotInit
    else (s.setB bd (aes (s.getK ks).rk (s.getB bs))).done

/-- `AESEM ks, xdst, xsrc, xn` (R126). -/
def execAesem (ks : KReg) (xdst xsrc xn : XReg) (s : State) : Host.Outcome State Fault Refusal :=
  .next <|
    if (s.getK ks).st ≠ .initialized then s.raise .keyNotInit
    else
      let dst := s.natX xdst
      let src := s.natX xsrc
      let n := s.natX xn
      if ¬ s.inRange src (16 * n) ∨ ¬ s.inRange dst (16 * n) then s.raise .addr
      else if dst ≠ src ∧ rangesOverlap dst (16 * n) src (16 * n) then s.raise .param
      else (s.setMem (encryptBlocks (s.getK ks).rk dst src n s.mem)).done

end Sys2Proof.Machine
end

