-- ==== Sys2Proof/Machine/CounterGenerator.lean ====
section
/-! DEFINITION. The counter generator (44_counter_generator.md R190 to R194). -/

namespace Sys2Proof.Machine

/-- A generator freshly seeded with a key: `rk <- KeyExpansion(key); ctr <- 0; seeded <- 1`
(R191, R193). -/
def seededGenerator (key : Block) : Generator := { seeded := true, rk := keyExpansion key, ctr := 0 }

/-- The block of a seeded generator, `AES(rk, blk(ctr))` with the counter before its increment
(R191). -/
def generatorBlock (g : Generator) : Block := aes g.rk (blk g.ctr.toNat)

/-- The increment `ctr <- (ctr + 1) mod 2^128` (R191). -/
def generatorAfter (g : Generator) : Generator := { g with ctr := g.ctr + 1 }

/-- `GenNext()` (R191): the block, or `none` for `fail`, and the state after it. An unseeded
generator makes one `Entropy` request; where that fails, G is unchanged. -/
def State.genNext (s : State) : Option Block × State :=
  if s.g.seeded then (some (generatorBlock s.g), s.setG (generatorAfter s.g))
  else
    match s.nextAnswer with
    | none => (none, s.afterDraw)
    | some e =>
      (some (generatorBlock (seededGenerator e)), s.afterDraw.setG (generatorAfter (seededGenerator e)))

/-- `GNEXT bd` (R192). -/
def execGnext (bd : BReg) (s : State) : Host.Outcome State Fault Refusal :=
  .next <|
    match s.genNext with
    | (none, t) => t.raise .randomness
    | (some v, t) => (t.setB bd v).done

/-- `GSEED bs` (R193): explicit seeding, in any state of G, without an `Entropy` request. -/
def execGseed (bs : BReg) (s : State) : Host.Outcome State Fault Refusal :=
  .next (s.setG (seededGenerator (s.getB bs))).done

end Sys2Proof.Machine
end

