-- ==== Sys2Proof/Machine/BlockOre.lean ====
section
/-! DEFINITION. The commands of BlockORE (47_block_ore.md R262, R264). -/

namespace Sys2Proof.Machine

/-- `OBENC cd, ss, xmsg` (R262): every check and the nonce draw come before the first write. -/
def execObenc (cd : CReg) (ss : SReg) (xmsg : XReg) (s : State) : Host.Outcome State Fault Refusal :=
  .next <|
    let key := s.getS ss
    let c := s.getC cd
    if key.st ≠ .initialized then s.raise .keyNotInit
    else if ¬ ctUsable c.st then s.raise .ctNotInit
    else if key.par ≠ c.par then s.raise .paramsMismatch
    else if c.par.scheme ≠ .block then s.raise .param
    else if c.par.bp.toNat % 2 = 1 then s.raise .param
    else if 64 < c.par.nbits.toNat then s.raise .unsupported
    else
      match s.genNext with
      | (none, t) => t.raise .randomness
      | (some nonce, t) =>
        let nbits := c.par.nbits.toNat
        let bl := c.par.bp.toNat
        let lr := blockEncrypt key.prf key.prp nbits bl (s.natX xmsg) nonce
        let mem := (s.mem.writeBytes c.base.toNat lr.1).writeBytes (c.base.toNat + leftLen nbits bl) lr.2
        ((t.setMem mem).setC cd { c with st := .populated }).done

/-- `OBCMP xd, ca, cb` (R264): `BlockCompare` may raise `E_PARAM`. -/
def execObcmp (xd : XReg) (ca cb : CReg) (s : State) : Host.Outcome State Fault Refusal :=
  .next <|
    let a := s.getC ca
    let b := s.getC cb
    if a.st ≠ .populated ∨ b.st ≠ .populated then s.raise .ctNotInit
    else if a.par ≠ b.par then s.raise .paramsMismatch
    else if a.par.scheme ≠ .block then s.raise .param
    else
      let nbits := a.par.nbits.toNat
      let bl := a.par.bp.toNat
      let left := leftLen nbits bl
      match
        blockCompare nbits bl (s.mem.bytes a.base.toNat left) (s.mem.bytes b.base.toNat left)
          (s.mem.bytes (b.base.toNat + left) (rightLen nbits bl)) with
      | none => s.raise .param
      | some r => (s.setX xd (compareWord r)).done

end Sys2Proof.Machine
end

