-- ==== Sys2Proof/Machine/DataMovement.lean ====
section
/-! DEFINITION. The data-movement commands (40_data_movement.md R90 to R98). Every meaning answers a
next state; `State.raise` and `State.done` write RESULT. -/

namespace Sys2Proof.Machine

/-- `NOP` (R90). -/
def execNop (s : State) : Host.Outcome State Fault Refusal := .next s.done

/-- `LI xd, imm16` (R91): `X[xd] <- zext_64(imm16)`. -/
def execLi (xd : XReg) (imm16 : BitVec 16) (s : State) : Host.Outcome State Fault Refusal :=
  .next (s.setX xd (imm16.zeroExtend 64)).done

/-- `LIH xd, imm16` (R92): `X[xd] <- ((X[xd] << 16) mod 2^64) or imm16`. -/
def execLih (xd : XReg) (imm16 : BitVec 16) (s : State) : Host.Outcome State Fault Refusal :=
  .next (s.setX xd ((s.getX xd <<< 16) ||| imm16.zeroExtend 64)).done

/-- `MKB bd, xh, xl` (R93): `B[bd] <- X[xh] ‖ X[xl]`. -/
def execMkb (bd : BReg) (xh xl : XReg) (s : State) : Host.Outcome State Fault Refusal :=
  .next (s.setB bd (pair (s.natX xh) (s.natX xl))).done

/-- `XBH xd, bs` (R94): `X[xd] <- B[bs][127:64]`. -/
def execXbh (xd : XReg) (bs : BReg) (s : State) : Host.Outcome State Fault Refusal :=
  .next (s.setX xd ((s.getB bs).extractLsb' 64 64)).done

/-- `XBL xd, bs` (R95): `X[xd] <- B[bs][63:0]`. -/
def execXbl (xd : XReg) (bs : BReg) (s : State) : Host.Outcome State Fault Refusal :=
  .next (s.setX xd ((s.getB bs).extractLsb' 0 64)).done

/-- `LDB bd, xa` (R96). -/
def execLdb (bd : BReg) (xa : XReg) (s : State) : Host.Outcome State Fault Refusal :=
  .next <|
    if ¬ s.inRange (s.natX xa) 16 then s.raise .addr
    else (s.setB bd (s.mem.readBlock (s.natX xa))).done

/-- `STB bs, xa` (R97). -/
def execStb (bs : BReg) (xa : XReg) (s : State) : Host.Outcome State Fault Refusal :=
  .next <|
    if ¬ s.inRange (s.natX xa) 16 then s.raise .addr
    else (s.setMem (s.mem.writeBlock (s.natX xa) (s.getB bs))).done

end Sys2Proof.Machine
end

