-- ==== Sys2Proof/Machine/PrfOracle.lean ====
section
/-! DEFINITION. The commands of the fixed-mode PRF and of the random oracle
(42_prf_random_oracle.md R141, R142, R145, R146). -/

namespace Sys2Proof.Machine

/-- `PRF bd, ks, bs` (R141). -/
def execPrf (bd : BReg) (ks : KReg) (bs : BReg) (s : State) : Host.Outcome State Fault Refusal :=
  .next <|
    if (s.getK ks).st ≠ .initialized then s.raise .keyNotInit
    else (s.setB bd (prfFix (s.getK ks).rk (s.getB bs))).done

/-- `PRFM ks, xdst, xdlen, xsrc, xslen` (R142): input length, output length, addresses, overlap. -/
def execPrfm (ks : KReg) (xdst xdlen xsrc xslen : XReg) (s : State) : Host.Outcome State Fault Refusal :=
  .next <|
    if (s.getK ks).st ≠ .initialized then s.raise .keyNotInit
    else if s.natX xslen ≠ 16 then s.raise .length
    else if s.natX xdlen ≠ 16 then s.raise .length
    else
      let dst := s.natX xdst
      let src := s.natX xsrc
      if ¬ s.inRange src 16 ∨ ¬ s.inRange dst 16 then s.raise .addr
      else if dst ≠ src ∧ rangesOverlap dst 16 src 16 then s.raise .param
      else (s.setMem (s.mem.writeBlock dst (prfFix (s.getK ks).rk (s.mem.readBlock src)))).done

/-- `RO xd, bkey, bval` (R145): `X[xd] <- zext_64(RO(B[bkey], B[bval]))`. -/
def execRo (xd : XReg) (bkey bval : BReg) (s : State) : Host.Outcome State Fault Refusal :=
  .next (s.setX xd ((randomOracle (s.getB bkey) (s.getB bval)).zeroExtend 64)).done

/-- `ROM xdst, xsrc, xn, bval` (R146): any overlap is refused. -/
def execRom (xdst xsrc xn : XReg) (bval : BReg) (s : State) : Host.Outcome State Fault Refusal :=
  .next <|
    let dst := s.natX xdst
    let src := s.natX xsrc
    let n := s.natX xn
    if ¬ s.inRange src (16 * n) ∨ ¬ s.inRange dst n then s.raise .addr
    else if rangesOverlap dst n src (16 * n) then s.raise .param
    else (s.setMem (oracleBytes (keyExpansion (s.getB bval)) dst src n s.mem)).done

end Sys2Proof.Machine
end

