-- ==== Sys2Proof/Machine/PrpCommands.lean ====
section
/-! DEFINITION. The commands of the Feistel PRP (43_prp_feistel.md R165 to R171, R173). -/

namespace Sys2Proof.Machine

/-- `PKEXP pd, ks` (R165). -/
def execPkexp (pd : PReg) (ks : KReg) (s : State) : Host.Outcome State Fault Refusal :=
  .next <|
    if (s.getK ks).st ≠ .initialized then s.raise .keyNotInit
    else (s.setP pd { st := .initialized, rk := prpKeyExpand (s.getK ks).rk }).done

/-- `PCLR pd` (R166). -/
def execPclr (pd : PReg) (s : State) : Host.Outcome State Fault Refusal :=
  .next <|
    if (s.getP pd).st ≠ .initialized then s.raise .keyNotInit
    else (s.setP pd { st := .cleared, rk := zeroPrpKeys }).done

/-- The single-value form (R167, R168): `f` is `PRPfwd` or `PRPinv`. The source is tested against
the domain only for `n < 64`: every 64-bit value is in the domain of width 64. -/
def State.prpSingle (s : State) (f : PrpKeys → Nat → Nat → Nat) (xd : XReg) (ps : PReg) (xs xn : XReg) :
    State :=
  if (s.getP ps).st ≠ .initialized then s.raise .keyNotInit
  else
    let n := s.natX xn
    let v := s.natX xs
    if ¬ prpWidthOk n then s.raise .param
    else if n < 64 ∧ 2 ^ n ≤ v then s.raise .param
    else (s.setX xd (BitVec.ofNat 64 (f (s.getP ps).rk v n))).done

/-- The full-domain form (R169, R170): a table of `2^n` entries of two bytes. -/
def State.prpTable (s : State) (f : PrpKeys → Nat → Nat → Nat) (ps : PReg) (xdst xn : XReg) : State :=
  if (s.getP ps).st ≠ .initialized then s.raise .keyNotInit
  else
    let n := s.natX xn
    let dst := s.natX xdst
    if ¬ prpAllWidthOk n then s.raise .param
    else if ¬ s.inRange dst (2 * 2 ^ n) then s.raise .addr
    else (s.setMem (writeTable (fun v => f (s.getP ps).rk v n) dst (2 ^ n) s.mem)).done

/-- `PRPE xd, ps, xs, xn` (R167). -/
def execPrpe (xd : XReg) (ps : PReg) (xs xn : XReg) (s : State) : Host.Outcome State Fault Refusal :=
  .next (s.prpSingle prpFwd xd ps xs xn)

/-- `PRPD xd, ps, xs, xn` (R168). -/
def execPrpd (xd : XReg) (ps : PReg) (xs xn : XReg) (s : State) : Host.Outcome State Fault Refusal :=
  .next (s.prpSingle prpInv xd ps xs xn)

/-- `PRPEA ps, xdst, xn` (R169). -/
def execPrpea (ps : PReg) (xdst xn : XReg) (s : State) : Host.Outcome State Fault Refusal :=
  .next (s.prpTable prpFwd ps xdst xn)

/-- `PRPDA ps, xdst, xn` (R170). -/
def execPrpda (ps : PReg) (xdst xn : XReg) (s : State) : Host.Outcome State Fault Refusal :=
  .next (s.prpTable prpInv ps xdst xn)

end Sys2Proof.Machine
end

