-- ==== Sys2Proof/Machine/Dispatch.lean ====
section
/-! DEFINITION. The dispatch of a decoded command to its meaning, one arm per command of
30_encoding.md R75. -/

namespace Sys2Proof.Machine

def exec (i : Instr) (s : State) : Host.Outcome State Fault Refusal :=
  match i with
  | .nop => Sys2Proof.Machine.execNop s
  | .li xd imm16 => Sys2Proof.Machine.execLi xd imm16 s
  | .lih xd imm16 => Sys2Proof.Machine.execLih xd imm16 s
  | .mkb bd xh xl => Sys2Proof.Machine.execMkb bd xh xl s
  | .xbh xd bs => Sys2Proof.Machine.execXbh xd bs s
  | .xbl xd bs => Sys2Proof.Machine.execXbl xd bs s
  | .ldb bd xa => Sys2Proof.Machine.execLdb bd xa s
  | .stb bs xa => Sys2Proof.Machine.execStb bs xa s
  | .kgen kd => Sys2Proof.Machine.execKgen kd s
  | .kexp kd bs => Sys2Proof.Machine.execKexp kd bs s
  | .kexpm kd xa xlen => Sys2Proof.Machine.execKexpm kd xa xlen s
  | .kclr kd => Sys2Proof.Machine.execKclr kd s
  | .aese bd ks bs => Sys2Proof.Machine.execAese bd ks bs s
  | .aesem ks xdst xsrc xn => Sys2Proof.Machine.execAesem ks xdst xsrc xn s
  | .prf bd ks bs => Sys2Proof.Machine.execPrf bd ks bs s
  | .prfm ks xdst xdlen xsrc xslen => Sys2Proof.Machine.execPrfm ks xdst xdlen xsrc xslen s
  | .ro xd bkey bval => Sys2Proof.Machine.execRo xd bkey bval s
  | .rom xdst xsrc xn bval => Sys2Proof.Machine.execRom xdst xsrc xn bval s
  | .pkexp pd ks => Sys2Proof.Machine.execPkexp pd ks s
  | .pclr pd => Sys2Proof.Machine.execPclr pd s
  | .prpe xd ps xs xn => Sys2Proof.Machine.execPrpe xd ps xs xn s
  | .prpd xd ps xs xn => Sys2Proof.Machine.execPrpd xd ps xs xn s
  | .prpea ps xdst xn => Sys2Proof.Machine.execPrpea ps xdst xn s
  | .prpda ps xdst xn => Sys2Proof.Machine.execPrpda ps xdst xn s
  | .gnext bd => Sys2Proof.Machine.execGnext bd s
  | .gseed bs => Sys2Proof.Machine.execGseed bs s
  | .pinitb prd xn xb => Sys2Proof.Machine.execPinitb prd xn xb s
  | .pinitl prd xn xb => Sys2Proof.Machine.execPinitl prd xn xb s
  | .csize xd prs => Sys2Proof.Machine.execCsize xd prs s
  | .cszl xd prs => Sys2Proof.Machine.execCszl xd prs s
  | .cszr xd prs => Sys2Proof.Machine.execCszr xd prs s
  | .setup sd prs => Sys2Proof.Machine.execSetup sd prs s
  | .skset sd prs bprf bprp => Sys2Proof.Machine.execSkset sd prs bprf bprp s
  | .sclr sd => Sys2Proof.Machine.execSclr sd s
  | .cinit cd prs xaddr => Sys2Proof.Machine.execCinit cd prs xaddr s
  | .cload cd prs xaddr => Sys2Proof.Machine.execCload cd prs xaddr s
  | .cclr cd => Sys2Proof.Machine.execCclr cd s
  | .oreenc cd ss xmsg => Sys2Proof.Machine.execOreenc cd ss xmsg s
  | .orecmp xd ca cb => Sys2Proof.Machine.execOrecmp xd ca cb s
  | .obenc cd ss xmsg => Sys2Proof.Machine.execObenc cd ss xmsg s
  | .obcmp xd ca cb => Sys2Proof.Machine.execObcmp xd ca cb s

end Sys2Proof.Machine
end

