-- ==== Sys2Proof/WellFormed.lean ====
section
/-! DEFINITION. What a well-formed line of assembly is (30_encoding.md R75, R80 to R85). A term of
`Instr` needs no check: its operand types hold exactly the values its fields hold (R73, R74). The
command WORD's check, must-be-zero fields and assigned opcodes, is the decoder's (Decode.lean). -/

namespace Sys2Proof

/-- What may stand in one operand position. -/
inductive OperandKind where
  /-- A register of this file. -/
  | reg (file : RegisterFile)
  /-- An immediate of `bits` bits. -/
  | imm (bits : Nat)
deriving DecidableEq, Repr

/-- The operands a mnemonic takes, in the order of 30_encoding.md R75; for the pseudo-instructions
of R84 and R85. -/
def Mnemonic.signature : Mnemonic → List OperandKind
  | .NOP => []
  | .LI | .LIH => [.reg .x, .imm 16]
  | .MKB => [.reg .b, .reg .x, .reg .x]
  | .XBH | .XBL => [.reg .x, .reg .b]
  | .LDB | .STB => [.reg .b, .reg .x]
  | .KGEN | .KCLR => [.reg .k]
  | .KEXP => [.reg .k, .reg .b]
  | .KEXPM => [.reg .k, .reg .x, .reg .x]
  | .AESE | .PRF => [.reg .b, .reg .k, .reg .b]
  | .AESEM => [.reg .k, .reg .x, .reg .x, .reg .x]
  | .PRFM => [.reg .k, .reg .x, .reg .x, .reg .x, .reg .x]
  | .RO => [.reg .x, .reg .b, .reg .b]
  | .ROM => [.reg .x, .reg .x, .reg .x, .reg .b]
  | .PKEXP => [.reg .p, .reg .k]
  | .PCLR => [.reg .p]
  | .PRPE | .PRPD => [.reg .x, .reg .p, .reg .x, .reg .x]
  | .PRPEA | .PRPDA => [.reg .p, .reg .x, .reg .x]
  | .GNEXT | .GSEED => [.reg .b]
  | .PINITB | .PINITL => [.reg .pr, .reg .x, .reg .x]
  | .CSIZE | .CSZL | .CSZR => [.reg .x, .reg .pr]
  | .SETUP => [.reg .s, .reg .pr]
  | .SKSET => [.reg .s, .reg .pr, .reg .b, .reg .b]
  | .SCLR => [.reg .s]
  | .CINIT | .CLOAD => [.reg .c, .reg .pr, .reg .x]
  | .CCLR => [.reg .c]
  | .OREENC | .OBENC => [.reg .c, .reg .s, .reg .x]
  | .ORECMP | .OBCMP => [.reg .x, .reg .c, .reg .c]
  | .LI64 => [.reg .x, .imm 64]
  | .LB128 => [.reg .b, .reg .x, .reg .x, .imm 128]

/-- Why a line is no legal assembly. -/
inductive AsmError where
  /-- Too many or too few operands for the mnemonic (R80). -/
  | operandCount
  /-- A register of the wrong file, or a register where an immediate belongs, or the reverse
  (R81: "A name of the wrong file in an operand position is an assembly error"). -/
  | wrongKind
  /-- A register number above 15 (R81). -/
  | registerRange
  /-- An immediate that does not fit (R82: it "must be in `0..65535`"; R84, R85 for the wide ones). -/
  | immediateRange
  /-- The text of a line names no mnemonic of R75, R84, R85 (R80). -/
  | unknownMnemonic
  /-- The text of an operand is no register name of R81 and no number of R82. -/
  | badOperand
deriving DecidableEq, Repr

/-- The check of one operand against what its position takes. -/
def AsmOperand.check : AsmOperand → OperandKind → Except AsmError Unit
  | .reg file n, .reg want =>
    if file ≠ want then .error .wrongKind else if n < 16 then .ok () else .error .registerRange
  | .imm v, .imm bits => if v < 2 ^ bits then .ok () else .error .immediateRange
  | .reg _ _, .imm _ => .error .wrongKind
  | .imm _, .reg _ => .error .wrongKind

/-- The check of a list of operands, first problem first. -/
def AsmOperand.checkAll : List AsmOperand → List OperandKind → Except AsmError Unit
  | [], [] => .ok ()
  | o :: os, k :: ks => do
    o.check k
    AsmOperand.checkAll os ks
  | [], _ :: _ => .error .operandCount
  | _ :: _, [] => .error .operandCount

/-- Is the line legal assembly? The first problem where it is not. -/
def AsmLine.check (l : AsmLine) : Except AsmError Unit :=
  AsmOperand.checkAll l.operands l.mnemonic.signature

/-- A well-formed line of assembly. -/
abbrev AsmLine.WellFormed (l : AsmLine) : Prop := l.check = .ok ()

end Sys2Proof
end

