-- ==== Sys2Proof/Decode.lean ====
section
/-! DEFINITION. The decoder and the encoder of command words (30_encoding.md R70 to R78), and the
assembler that turns a line of assembly into commands (R80 to R86). -/

namespace Sys2Proof

/-! ## Fields of a command word (R70) -/

/-- `op`, bits 31:24. -/
def fieldOp (w : CommandWord) : BitVec 8 := w.extractLsb' 24 8

/-- An operand field as a register index: all sixteen values are valid (R73). -/
def fieldIndex (f : BitVec 4) : Fin 16 := ⟨f.toNat, f.isLt⟩

/-- `a`, bits 23:20, the first operand. -/
def fieldA (w : CommandWord) : Fin 16 := fieldIndex (w.extractLsb' 20 4)

/-- `b`, bits 19:16, the second operand. -/
def fieldB (w : CommandWord) : Fin 16 := fieldIndex (w.extractLsb' 16 4)

/-- `c`, bits 15:12, the third operand. -/
def fieldC (w : CommandWord) : Fin 16 := fieldIndex (w.extractLsb' 12 4)

/-- `d`, bits 11:8, the fourth operand. -/
def fieldD (w : CommandWord) : Fin 16 := fieldIndex (w.extractLsb' 8 4)

/-- `e`, bits 7:4, the fifth operand. -/
def fieldE (w : CommandWord) : Fin 16 := fieldIndex (w.extractLsb' 4 4)

/-- `imm16`, bits 15:0 (format I; it overlays `c`, `d`, `e`, `f`). -/
def fieldImm (w : CommandWord) : BitVec 16 := w.extractLsb' 0 16

/-! ## Formats and opcodes (R72, R75) -/

/-- The formats of R72: which fields carry operands; every other field must be zero. -/
inductive Format where
  /-- no operand -/
  | z
  /-- `a`, `imm16` -/
  | i
  /-- `a` -/
  | r1
  /-- `a b` -/
  | r2
  /-- `a b c` -/
  | r3
  /-- `a b c d` -/
  | r4
  /-- `a b c d e` -/
  | r5
deriving DecidableEq, Repr

/-- `mask` of R72: the bits of a word that must match. -/
def formatMask : Format → CommandWord
  | .z => 0xFFFFFFFF#32
  | .i => 0xFF0F0000#32
  | .r1 => 0xFF0FFFFF#32
  | .r2 => 0xFF00FFFF#32
  | .r3 => 0xFF000FFF#32
  | .r4 => 0xFF0000FF#32
  | .r5 => 0xFF00000F#32

/-- `match` of R72: `op << 24`. -/
def formatMatch (op : BitVec 8) : CommandWord := op.zeroExtend 32 <<< 24

/-- The opcode map of R75: an assigned opcode's format and the command its fields make; `none` for
the reserved opcodes of R77. -/
def opcodeRow (op : Nat) : Option (Format × (CommandWord → Instr)) :=
  match op with
  | 0x00 => some (.z, fun _ => .nop)
  | 0x01 => some (.i, fun w => .li (fieldA w) (fieldImm w))
  | 0x02 => some (.i, fun w => .lih (fieldA w) (fieldImm w))
  | 0x03 => some (.r3, fun w => .mkb (fieldA w) (fieldB w) (fieldC w))
  | 0x04 => some (.r2, fun w => .xbh (fieldA w) (fieldB w))
  | 0x05 => some (.r2, fun w => .xbl (fieldA w) (fieldB w))
  | 0x06 => some (.r2, fun w => .ldb (fieldA w) (fieldB w))
  | 0x07 => some (.r2, fun w => .stb (fieldA w) (fieldB w))
  | 0x10 => some (.r1, fun w => .kgen (fieldA w))
  | 0x11 => some (.r2, fun w => .kexp (fieldA w) (fieldB w))
  | 0x12 => some (.r3, fun w => .kexpm (fieldA w) (fieldB w) (fieldC w))
  | 0x13 => some (.r1, fun w => .kclr (fieldA w))
  | 0x14 => some (.r3, fun w => .aese (fieldA w) (fieldB w) (fieldC w))
  | 0x15 => some (.r4, fun w => .aesem (fieldA w) (fieldB w) (fieldC w) (fieldD w))
  | 0x20 => some (.r3, fun w => .prf (fieldA w) (fieldB w) (fieldC w))
  | 0x21 => some (.r5, fun w => .prfm (fieldA w) (fieldB w) (fieldC w) (fieldD w) (fieldE w))
  | 0x24 => some (.r3, fun w => .ro (fieldA w) (fieldB w) (fieldC w))
  | 0x25 => some (.r4, fun w => .rom (fieldA w) (fieldB w) (fieldC w) (fieldD w))
  | 0x30 => some (.r2, fun w => .pkexp (fieldA w) (fieldB w))
  | 0x31 => some (.r1, fun w => .pclr (fieldA w))
  | 0x32 => some (.r4, fun w => .prpe (fieldA w) (fieldB w) (fieldC w) (fieldD w))
  | 0x33 => some (.r4, fun w => .prpd (fieldA w) (fieldB w) (fieldC w) (fieldD w))
  | 0x34 => some (.r3, fun w => .prpea (fieldA w) (fieldB w) (fieldC w))
  | 0x35 => some (.r3, fun w => .prpda (fieldA w) (fieldB w) (fieldC w))
  | 0x40 => some (.r1, fun w => .gnext (fieldA w))
  | 0x41 => some (.r1, fun w => .gseed (fieldA w))
  | 0x50 => some (.r3, fun w => .pinitb (fieldA w) (fieldB w) (fieldC w))
  | 0x51 => some (.r3, fun w => .pinitl (fieldA w) (fieldB w) (fieldC w))
  | 0x52 => some (.r2, fun w => .csize (fieldA w) (fieldB w))
  | 0x53 => some (.r2, fun w => .cszl (fieldA w) (fieldB w))
  | 0x54 => some (.r2, fun w => .cszr (fieldA w) (fieldB w))
  | 0x55 => some (.r2, fun w => .setup (fieldA w) (fieldB w))
  | 0x56 => some (.r4, fun w => .skset (fieldA w) (fieldB w) (fieldC w) (fieldD w))
  | 0x57 => some (.r1, fun w => .sclr (fieldA w))
  | 0x58 => some (.r3, fun w => .cinit (fieldA w) (fieldB w) (fieldC w))
  | 0x59 => some (.r3, fun w => .cload (fieldA w) (fieldB w) (fieldC w))
  | 0x5A => some (.r1, fun w => .cclr (fieldA w))
  | 0x60 => some (.r3, fun w => .oreenc (fieldA w) (fieldB w) (fieldC w))
  | 0x61 => some (.r3, fun w => .orecmp (fieldA w) (fieldB w) (fieldC w))
  | 0x70 => some (.r3, fun w => .obenc (fieldA w) (fieldB w) (fieldC w))
  | 0x71 => some (.r3, fun w => .obcmp (fieldA w) (fieldB w) (fieldC w))
  | _ => none

/-- Why a word is illegal (R76). -/
inductive IllegalWord where
  /-- Its opcode is not one of the 41 values of R75. -/
  | unassignedOpcode (op : BitVec 8)
  /-- Its opcode is assigned and a field its format marks must-be-zero is not zero. -/
  | nonzeroMbz (op : BitVec 8)
deriving DecidableEq, Repr

/-- The decoder (R71 steps 1 and 2, R72): total on all `2^32` words. A word selects a command
exactly when `w and mask = match`. -/
def decode (w : CommandWord) : Except IllegalWord Instr :=
  match opcodeRow (fieldOp w).toNat with
  | none => .error (.unassignedOpcode (fieldOp w))
  | some (fmt, build) =>
    if w &&& formatMask fmt = formatMatch (fieldOp w) then .ok (build w)
    else .error (.nonzeroMbz (fieldOp w))

/-! ## The encoder (R70, R83) -/

/-- The word of an R-format command: its opcode, five operand fields (absent operands 0) and
field `f` = 0. -/
def packR (op : BitVec 8) (a b c d e : Fin 16) : CommandWord :=
  op ++ BitVec.ofNat 4 a ++ BitVec.ofNat 4 b ++ BitVec.ofNat 4 c ++ BitVec.ofNat 4 d ++
    BitVec.ofNat 4 e ++ 0#4

/-- The word of an I-format command: opcode, `a`, field `b` = 0, immediate. -/
def packI (op : BitVec 8) (a : Fin 16) (imm : BitVec 16) : CommandWord :=
  op ++ BitVec.ofNat 4 a ++ 0#4 ++ imm

/-- The command word of a command (R75, R83). -/
def encode : Instr → CommandWord
  | .nop => packR 0x00 0 0 0 0 0
  | .li xd imm => packI 0x01 xd imm
  | .lih xd imm => packI 0x02 xd imm
  | .mkb bd xh xl => packR 0x03 bd xh xl 0 0
  | .xbh xd bs => packR 0x04 xd bs 0 0 0
  | .xbl xd bs => packR 0x05 xd bs 0 0 0
  | .ldb bd xa => packR 0x06 bd xa 0 0 0
  | .stb bs xa => packR 0x07 bs xa 0 0 0
  | .kgen kd => packR 0x10 kd 0 0 0 0
  | .kexp kd bs => packR 0x11 kd bs 0 0 0
  | .kexpm kd xa xlen => packR 0x12 kd xa xlen 0 0
  | .kclr kd => packR 0x13 kd 0 0 0 0
  | .aese bd ks bs => packR 0x14 bd ks bs 0 0
  | .aesem ks xdst xsrc xn => packR 0x15 ks xdst xsrc xn 0
  | .prf bd ks bs => packR 0x20 bd ks bs 0 0
  | .prfm ks xdst xdlen xsrc xslen => packR 0x21 ks xdst xdlen xsrc xslen
  | .ro xd bkey bval => packR 0x24 xd bkey bval 0 0
  | .rom xdst xsrc xn bval => packR 0x25 xdst xsrc xn bval 0
  | .pkexp pd ks => packR 0x30 pd ks 0 0 0
  | .pclr pd => packR 0x31 pd 0 0 0 0
  | .prpe xd ps xs xn => packR 0x32 xd ps xs xn 0
  | .prpd xd ps xs xn => packR 0x33 xd ps xs xn 0
  | .prpea ps xdst xn => packR 0x34 ps xdst xn 0 0
  | .prpda ps xdst xn => packR 0x35 ps xdst xn 0 0
  | .gnext bd => packR 0x40 bd 0 0 0 0
  | .gseed bs => packR 0x41 bs 0 0 0 0
  | .pinitb prd xn xb => packR 0x50 prd xn xb 0 0
  | .pinitl prd xn xb => packR 0x51 prd xn xb 0 0
  | .csize xd prs => packR 0x52 xd prs 0 0 0
  | .cszl xd prs => packR 0x53 xd prs 0 0 0
  | .cszr xd prs => packR 0x54 xd prs 0 0 0
  | .setup sd prs => packR 0x55 sd prs 0 0 0
  | .skset sd prs bprf bprp => packR 0x56 sd prs bprf bprp 0
  | .sclr sd => packR 0x57 sd 0 0 0 0
  | .cinit cd prs xaddr => packR 0x58 cd prs xaddr 0 0
  | .cload cd prs xaddr => packR 0x59 cd prs xaddr 0 0
  | .cclr cd => packR 0x5A cd 0 0 0 0
  | .oreenc cd ss xmsg => packR 0x60 cd ss xmsg 0 0
  | .orecmp xd ca cb => packR 0x61 xd ca cb 0 0
  | .obenc cd ss xmsg => packR 0x70 cd ss xmsg 0 0
  | .obcmp xd ca cb => packR 0x71 xd ca cb 0 0

/-! ## The opcode table's numbering -/

/-- The command word whose `nbits` low bits are those of `w`, bit 0 the least significant; every
bit above them is 0. Commands have one length, 32 bits (R70, R78); any other length is the model's
(DESIGN CHOICE, log 20). -/
def tableWord (nbits w : Nat) : CommandWord := BitVec.ofNat 32 (w % 2 ^ nbits)

/-- The command the decoder reads from a word of the opcode table; `none` where it refuses. -/
def decodeTableWord (nbits w : Nat) : Option Instr :=
  match decode (tableWord nbits w) with
  | .ok i => some i
  | .error _ => none

/-! ## The assembler (R80 to R86) -/

/-- The number of a register operand or the value of an immediate. -/
def operandValue : AsmOperand → Nat
  | .reg _ n => n
  | .imm v => v

/-- LI64 (R84): four commands that load a 64-bit constant; none is dropped (DESIGN CHOICE, log 19). -/
def expandLi64 (xd : XReg) (v : XWord) : List Instr :=
  [.li xd (v.extractLsb' 48 16), .lih xd (v.extractLsb' 32 16), .lih xd (v.extractLsb' 16 16),
    .lih xd (v.extractLsb' 0 16)]

/-- LB128 (R85): the nine commands that load a 128-bit constant through two scratch registers. -/
def expandLb128 (bd : BReg) (xt xu : XReg) (v : Block) : List Instr :=
  expandLi64 xt (v.extractLsb' 64 64) ++ expandLi64 xu (v.extractLsb' 0 64) ++ [.mkb bd xt xu]

/-- The commands of a mnemonic with its operands' numbers `n`, where there are as many as its
signature has. -/
def lineCommands (m : Mnemonic) (n : Nat → Nat) : List Instr :=
  let r (k : Nat) : Fin 16 := Fin.ofNat 16 (n k)
  match m with
  | .NOP => [.nop]
  | .LI => [.li (r 0) (BitVec.ofNat 16 (n 1))]
  | .LIH => [.lih (r 0) (BitVec.ofNat 16 (n 1))]
  | .MKB => [.mkb (r 0) (r 1) (r 2)]
  | .XBH => [.xbh (r 0) (r 1)]
  | .XBL => [.xbl (r 0) (r 1)]
  | .LDB => [.ldb (r 0) (r 1)]
  | .STB => [.stb (r 0) (r 1)]
  | .KGEN => [.kgen (r 0)]
  | .KEXP => [.kexp (r 0) (r 1)]
  | .KEXPM => [.kexpm (r 0) (r 1) (r 2)]
  | .KCLR => [.kclr (r 0)]
  | .AESE => [.aese (r 0) (r 1) (r 2)]
  | .AESEM => [.aesem (r 0) (r 1) (r 2) (r 3)]
  | .PRF => [.prf (r 0) (r 1) (r 2)]
  | .PRFM => [.prfm (r 0) (r 1) (r 2) (r 3) (r 4)]
  | .RO => [.ro (r 0) (r 1) (r 2)]
  | .ROM => [.rom (r 0) (r 1) (r 2) (r 3)]
  | .PKEXP => [.pkexp (r 0) (r 1)]
  | .PCLR => [.pclr (r 0)]
  | .PRPE => [.prpe (r 0) (r 1) (r 2) (r 3)]
  | .PRPD => [.prpd (r 0) (r 1) (r 2) (r 3)]
  | .PRPEA => [.prpea (r 0) (r 1) (r 2)]
  | .PRPDA => [.prpda (r 0) (r 1) (r 2)]
  | .GNEXT => [.gnext (r 0)]
  | .GSEED => [.gseed (r 0)]
  | .PINITB => [.pinitb (r 0) (r 1) (r 2)]
  | .PINITL => [.pinitl (r 0) (r 1) (r 2)]
  | .CSIZE => [.csize (r 0) (r 1)]
  | .CSZL => [.cszl (r 0) (r 1)]
  | .CSZR => [.cszr (r 0) (r 1)]
  | .SETUP => [.setup (r 0) (r 1)]
  | .SKSET => [.skset (r 0) (r 1) (r 2) (r 3)]
  | .SCLR => [.sclr (r 0)]
  | .CINIT => [.cinit (r 0) (r 1) (r 2)]
  | .CLOAD => [.cload (r 0) (r 1) (r 2)]
  | .CCLR => [.cclr (r 0)]
  | .OREENC => [.oreenc (r 0) (r 1) (r 2)]
  | .ORECMP => [.orecmp (r 0) (r 1) (r 2)]
  | .OBENC => [.obenc (r 0) (r 1) (r 2)]
  | .OBCMP => [.obcmp (r 0) (r 1) (r 2)]
  | .LI64 => expandLi64 (r 0) (BitVec.ofNat 64 (n 1))
  | .LB128 => expandLb128 (r 0) (r 1) (r 2) (BitVec.ofNat 128 (n 3))

/-- The command words of a line of assembly: one word, or the words of a pseudo-instruction's
expansion (R83, R84, R85). Ill-formed lines are refused by the name of their first problem. -/
def assemble (l : AsmLine) : Except AsmError (List CommandWord) :=
  match l.check with
  | .error e => .error e
  | .ok () =>
    .ok ((lineCommands l.mnemonic fun k => (l.operands.map operandValue).getD k 0).map encode)

/-! ## The text of a line (R80 to R82)

Beyond the rules (DESIGN CHOICE, log 19): blanks and tabs around the mnemonic and the operands do not
count, a register number has no leading zero, hexadecimal digits are of either case, and a line that is
blank or holds only a comment is legal and gives no words. -/

/-- A mnemonic as it is written, upper case (R75, R80). -/
def mnemonicText : Mnemonic → String
  | .NOP => "NOP"
  | .LI => "LI"
  | .LIH => "LIH"
  | .MKB => "MKB"
  | .XBH => "XBH"
  | .XBL => "XBL"
  | .LDB => "LDB"
  | .STB => "STB"
  | .KGEN => "KGEN"
  | .KEXP => "KEXP"
  | .KEXPM => "KEXPM"
  | .KCLR => "KCLR"
  | .AESE => "AESE"
  | .AESEM => "AESEM"
  | .PRF => "PRF"
  | .PRFM => "PRFM"
  | .RO => "RO"
  | .ROM => "ROM"
  | .PKEXP => "PKEXP"
  | .PCLR => "PCLR"
  | .PRPE => "PRPE"
  | .PRPD => "PRPD"
  | .PRPEA => "PRPEA"
  | .PRPDA => "PRPDA"
  | .GNEXT => "GNEXT"
  | .GSEED => "GSEED"
  | .PINITB => "PINITB"
  | .PINITL => "PINITL"
  | .CSIZE => "CSIZE"
  | .CSZL => "CSZL"
  | .CSZR => "CSZR"
  | .SETUP => "SETUP"
  | .SKSET => "SKSET"
  | .SCLR => "SCLR"
  | .CINIT => "CINIT"
  | .CLOAD => "CLOAD"
  | .CCLR => "CCLR"
  | .OREENC => "OREENC"
  | .ORECMP => "ORECMP"
  | .OBENC => "OBENC"
  | .OBCMP => "OBCMP"
  | .LI64 => "LI64"
  | .LB128 => "LB128"

/-- The mnemonics of R75, R84 and R85. -/
def mnemonics : List Mnemonic :=
  [.NOP, .LI, .LIH, .MKB, .XBH, .XBL, .LDB, .STB, .KGEN, .KEXP, .KEXPM, .KCLR, .AESE, .AESEM, .PRF,
    .PRFM, .RO, .ROM, .PKEXP, .PCLR, .PRPE, .PRPD, .PRPEA, .PRPDA, .GNEXT, .GSEED, .PINITB,
    .PINITL, .CSIZE, .CSZL, .CSZR, .SETUP, .SKSET, .SCLR, .CINIT, .CLOAD, .CCLR, .OREENC, .ORECMP,
    .OBENC, .OBCMP, .LI64, .LB128]

/-- A blank or a tab. -/
def isBlank (c : Char) : Bool := c == ' ' || c == '\t'

/-- The text without blanks at either end. -/
def trimBlanks (text : List Char) : List Char := ((text.dropWhile isBlank).reverse.dropWhile isBlank).reverse

/-- The pieces of a text between its commas; at least one. -/
def splitAtCommas : List Char → List (List Char)
  | [] => [[]]
  | c :: rest =>
    if c = ',' then [] :: splitAtCommas rest
    else
      match splitAtCommas rest with
      | [] => [[c]]
      | piece :: pieces => (c :: piece) :: pieces

/-- The value of a digit, decimal or hexadecimal. -/
def digitValue (c : Char) : Option Nat :=
  if '0' ≤ c ∧ c ≤ '9' then some (c.toNat - '0'.toNat)
  else if 'a' ≤ c ∧ c ≤ 'f' then some (c.toNat - 'a'.toNat + 10)
  else if 'A' ≤ c ∧ c ≤ 'F' then some (c.toNat - 'A'.toNat + 10)
  else none

/-- The number that follows `acc` digit by digit; `none` at a character that is no digit of the base. -/
def digitsValue (base : Nat) : Nat → List Char → Option Nat
  | acc, [] => some acc
  | acc, c :: rest =>
    match digitValue c with
    | none => none
    | some d => if d < base then digitsValue base (acc * base + d) rest else none

/-- An immediate in decimal or as `0x` hexadecimal (R82). -/
def parseImmediate : List Char → Option Nat
  | [] => none
  | '0' :: 'x' :: [] => none
  | '0' :: 'x' :: digits => digitsValue 16 0 digits
  | digits => digitsValue 10 0 digits

/-- The number of a register name (R81), in decimal. -/
def parseNumber : List Char → Option Nat
  | [] => none
  | '0' :: _ :: _ => none
  | digits => digitsValue 10 0 digits

/-- The register that a file and the text of its number name. -/
def parseRegister (file : RegisterFile) (number : List Char) : Except AsmError AsmOperand :=
  match parseNumber number with
  | some n => .ok (.reg file n)
  | none => .error .badOperand

/-- The text of an operand: a register name (R81) or an immediate (R82). -/
def parseOperand (text : List Char) : Except AsmError AsmOperand :=
  match text with
  | 'x' :: number => parseRegister .x number
  | 'b' :: number => parseRegister .b number
  | 'k' :: number => parseRegister .k number
  | 'p' :: 'r' :: number => parseRegister .pr number
  | 'p' :: number => parseRegister .p number
  | 's' :: number => parseRegister .s number
  | 'c' :: number => parseRegister .c number
  | digits =>
    match parseImmediate digits with
    | some v => .ok (.imm v)
    | none => .error .badOperand

/-- The texts of operands, first problem first. -/
def parseOperands : List (List Char) → Except AsmError (List AsmOperand)
  | [] => .ok []
  | text :: rest => do
    let first ← parseOperand (trimBlanks text)
    let others ← parseOperands rest
    return first :: others

/-- The text of a line (R80): `MNEMONIC operand, operand, ...`; a comment starts with `;` and runs to
the end. `none` for a line without a mnemonic, blank or only a comment, which R80 does not speak of: it
is accepted (DESIGN CHOICE, log 19). -/
def parseLine (text : List Char) : Except AsmError (Option AsmLine) :=
  let code := trimBlanks (text.takeWhile (· ≠ ';'))
  let name := code.takeWhile fun c => ! isBlank c
  let rest := trimBlanks (code.drop name.length)
  if code.isEmpty then .ok none
  else
    match mnemonics.find? fun m => (mnemonicText m).toList = name with
    | none => .error .unknownMnemonic
    | some m =>
      if rest.isEmpty then .ok (some { mnemonic := m, operands := [] })
      else
        match parseOperands (splitAtCommas rest) with
        | .error e => .error e
        | .ok operands => .ok (some { mnemonic := m, operands := operands })

/-- The command words of the text of a line; no words for a line without a mnemonic (DESIGN CHOICE,
log 19). -/
def assembleText (text : List Char) : Except AsmError (List CommandWord) :=
  match parseLine text with
  | .error e => .error e
  | .ok none => .ok []
  | .ok (some l) => assemble l

end Sys2Proof
end

