-- ==== Sys2Proof/Machine/Flags.lean ====
section
/-! DEFINITION. The engine has no flags (10_state.md R24). What a program sees instead: lifecycle
codes (R26) and the control registers, read-only views of the state (R40 to R43). -/

namespace Sys2Proof.Machine

/-- The code of a K, P or S entry's lifecycle state (10_state.md R26). -/
def keyStateCode : KeyState → BitVec 2
  | .uninitialized => 0
  | .initialized => 1
  | .cleared => 3

/-- The code of a ciphertext descriptor's lifecycle state (10_state.md R26). -/
def ctStateCode : CtState → BitVec 2
  | .uninitialized => 0
  | .initialized => 1
  | .populated => 2
  | .cleared => 3

/-- The code of a Params entry in PRSTATE (10_state.md R42): 0 when `init = 0`, 1 when `init = 1`. -/
def paramsCode (p : Params) : BitVec 2 := if p.init then 1 else 0

/-- Sixteen 2-bit codes as a word: bits `2i+1 : 2i` hold the code of entry `i` (10_state.md R42). -/
def stateWord (code : Fin 16 → BitVec 2) : BitVec 32 :=
  (List.finRange 16).foldl (fun acc i => acc ||| ((code i).zeroExtend 32 <<< (2 * i.val))) 0

/-- `ReadCR(n)` (10_state.md R40 to R43): RESULT, KSTATE, PSTATE, PRSTATE, SSTATE, CSTATE, GSTATE,
and 0 for `n > 6`. -/
def State.controlRegister (s : State) (n : Nat) : BitVec 32 :=
  match n with
  | 0 => s.result.zeroExtend 32
  | 1 => stateWord fun i => keyStateCode (s.getK i).st
  | 2 => stateWord fun i => keyStateCode (s.getP i).st
  | 3 => stateWord fun i => paramsCode (s.getPR i)
  | 4 => stateWord fun i => keyStateCode (s.getS i).st
  | 5 => stateWord fun i => ctStateCode (s.getC i).st
  | 6 => if s.g.seeded then 1 else 0
  | _ => 0

end Sys2Proof.Machine
end

