-- ==== Sys2Proof/Machine/HostPort.lean ====
section
/-! DEFINITION. The host's side of the engine (00_scope.md R8, 10_state.md R40 to R45, 60_exceptions.md
R298, 70_reset_and_hazards.md R320, R321): taking the next transaction and performing it. -/

namespace Sys2Proof.Machine

/-- The transaction the host makes next, and the state in which it is performed: transactions take
effect in the order the host makes them (20_memory.md R62). `none` while the engine waits. -/
def State.nextTransaction (s : State) : Option (HostTx × State) :=
  match s.inbox with
  | [] => none
  | tx :: rest => some (tx, { s with inbox := rest })

/-- The state after a transaction that returned a value. -/
def State.reply (s : State) (r : HostReply) : State := { s with replies := s.replies ++ [r] }

/-- The end of `Issue`: the result code is returned (30_encoding.md R71 step 4, 10_state.md R36). -/
def issueReply : Host.Outcome State Fault Refusal → Host.Outcome State Fault Refusal
  | .next s => .next (s.reply (.code s.result))
  | .fault r => .fault r
  | .refused r => .refused r

/-- `Reset()` (70_reset_and_hazards.md R320, R321): the values of 10_state.md R46; M and the
parameter `MEM_SIZE` stay, and so do the host's transactions, the replies and the oracle (DEDUCED, log 11);
RESULT becomes 0 (DEDUCED, log 10). -/
def State.hostReset (s : State) : State :=
  { State.withResetValues s.mem s.memSize with
    inbox := s.inbox, replies := s.replies, entropy := s.entropy, draws := s.draws }

/-- An illegal command word (30_encoding.md R76): `E_ILLEGAL`, and nothing changes but RESULT. -/
def State.illegalCommand (s : State) : State := s.raise .illegal

/-- `Issue(w)` (30_encoding.md R71) on an engine whose commands mean `run`: decode, execute, and
return the result code. -/
def issueWith (run : Instr → State → Host.Outcome State Fault Refusal) (w : CommandWord) (s : State) :
    Host.Outcome State Fault Refusal :=
  match decode w with
  | .ok i => issueReply (run i s)
  | .error _ => issueReply (.next s.illegalCommand)

/-- One host transaction (00_scope.md R8) on an engine whose commands mean `run`. `ReadMem` and
`WriteMem` exist only for ranges inside M (60_exceptions.md R298; DEDUCED, log 8). -/
def transactWith (run : Instr → State → Host.Outcome State Fault Refusal) (tx : HostTx) (s : State) :
    Host.Outcome State Fault Refusal :=
  match tx with
  | .issue w => issueWith run w s
  | .readX i => .next (s.reply (.scalar (s.getX i)))
  | .writeX i v => .next (s.setX i v)
  | .readB i => .next (s.reply (.block (s.getB i)))
  | .writeB i v => .next (s.setB i v)
  | .readMem a n =>
    if s.inRange a n then .next (s.reply (.bytes (s.mem.bytes a n)))
    else .refused .hostRangeOutsideMemory
  | .writeMem a bytes =>
    if s.inRange a bytes.length then .next (s.setMem (s.mem.writeBytes a bytes))
    else .refused .hostRangeOutsideMemory
  | .readCR n => .next (s.reply (.control (s.controlRegister n)))
  | .reset => .next s.hostReset

/-- The state in which the host's next transaction is `Issue(w)`, nothing else changed. -/
def State.pushIssue (s : State) (w : CommandWord) : State := { s with inbox := .issue w :: s.inbox }

end Sys2Proof.Machine
end

