-- ==== Sys2Proof/Machine/Step.lean ====
section
/-! DEFINITION. One step of the machine: one host transaction (00_scope.md R6, R8). `Issue(w)`
decodes and executes `w` and returns its result code (30_encoding.md R71). While the host has made
no transaction the engine waits, unchanged (10_state.md R22; DESIGN CHOICE, log 3). -/

namespace Sys2Proof.Machine

/-- The host's next transaction, performed; the engine as it is while there is none. -/
def step (s : State) : Host.Outcome State Fault Refusal :=
  match s.nextTransaction with
  | none => .next s
  | some (tx, t) => transactWith exec tx t

/-- The state in which `step` issues exactly this word of the opcode table next: a command arrives
through `Issue` and is not fetched from M (20_memory.md R65; DESIGN CHOICE, log 3). -/
def State.withFetchWord (s : State) (nbits w : Nat) : State := s.pushIssue (tableWord nbits w)

end Sys2Proof.Machine
end

