-- ==== Sys2Proof/Safety.lean ====
section
/-! DEFINITION. The terms the statements are made in: the parts of a state and what a command may
change (10_state.md R45), the ways a command ends, what the host can see, the invariants of the
spec's rules, and the tables of 30_encoding.md R72, R75 and 60_exceptions.md R292 written out once
more, independently of the decoder and of the meanings. -/

namespace Sys2Proof.Machine

/-! ## Parts of a state -/

/-- The parts of a state that a frame speaks of. -/
inductive Part where
  /-- X[0..15] -/
  | x
  /-- B[0..15] -/
  | b
  /-- K[0..15] -/
  | k
  /-- P[0..15] -/
  | p
  /-- PR[0..15] -/
  | pr
  /-- S[0..15] -/
  | sk
  /-- C[0..15] -/
  | ct
  /-- G -/
  | g
  /-- RESULT -/
  | result
  /-- M, byte by byte -/
  | mem
  /-- the parameter MEM_SIZE -/
  | memSize
  /-- the host's transactions to come -/
  | inbox
  /-- the values returned so far -/
  | replies
  /-- the oracle: its answers to come and the count of requests -/
  | oracle
deriving DecidableEq, Repr

/-- The part is the same in both states; for M, every byte reads the same. -/
def samePart (q : Part) (s t : State) : Prop :=
  match q with
  | .x => t.x = s.x
  | .b => t.b = s.b
  | .k => t.k = s.k
  | .p => t.p = s.p
  | .pr => t.pr = s.pr
  | .sk => t.sk = s.sk
  | .ct => t.ct = s.ct
  | .g => t.g = s.g
  | .result => t.result = s.result
  | .mem => ∀ a, t.mem.read a = s.mem.read a
  | .memSize => t.memSize = s.memSize
  | .inbox => t.inbox = s.inbox
  | .replies => t.replies = s.replies
  | .oracle => t.entropy = s.entropy ∧ t.draws = s.draws

/-- Every part not listed is the same in both states. -/
def ChangesOnly (parts : List Part) (s t : State) : Prop := ∀ q, q ∉ parts → samePart q s t

/-- Every byte outside the `n` bytes at `a` reads the same in both states. -/
def MemOutside (a n : Nat) (s t : State) : Prop :=
  ∀ c, c < a ∨ a + n ≤ c → t.mem.read c = s.mem.read c

/-! ## How a command ends -/

/-- The command answers a next state, of which `post` holds. -/
def Ends (i : Instr) (s : State) (post : State → Prop) : Prop :=
  ∃ t, exec i s = .next t ∧ post t

/-- The command raised this code (60_exceptions.md R293): RESULT holds it and nothing else changed. -/
def Raised (code : BitVec 8) (s t : State) : Prop := t.result = code ∧ ChangesOnly [.result] s t

/-- The command completed with `X[xd] = v`, and nothing else changed but RESULT. -/
def WroteX (xd : XReg) (v : XWord) (s t : State) : Prop :=
  t.getX xd = v ∧ (∀ j, j ≠ xd → t.getX j = s.getX j) ∧ t.result = 0 ∧ ChangesOnly [.x, .result] s t

/-- The command completed with `B[bd] = v`, and nothing else changed but RESULT. -/
def WroteB (bd : BReg) (v : Block) (s t : State) : Prop :=
  t.getB bd = v ∧ (∀ j, j ≠ bd → t.getB j = s.getB j) ∧ t.result = 0 ∧ ChangesOnly [.b, .result] s t

/-- The command completed with `K[kd] = v`; beside K and RESULT only the parts in `also` may have
changed. -/
def WroteK (also : List Part) (kd : KReg) (v : KeyEntry) (s t : State) : Prop :=
  t.getK kd = v ∧ (∀ j, j ≠ kd → t.getK j = s.getK j) ∧ t.result = 0 ∧
    ChangesOnly ([.k, .result] ++ also) s t

/-- The command completed with `P[pd] = v`, and nothing else changed but RESULT. -/
def WroteP (pd : PReg) (v : PrpEntry) (s t : State) : Prop :=
  t.getP pd = v ∧ (∀ j, j ≠ pd → t.getP j = s.getP j) ∧ t.result = 0 ∧ ChangesOnly [.p, .result] s t

/-- The command completed with `PR[prd] = v`, and nothing else changed but RESULT. -/
def WrotePR (prd : PrReg) (v : Params) (s t : State) : Prop :=
  t.getPR prd = v ∧ (∀ j, j ≠ prd → t.getPR j = s.getPR j) ∧ t.result = 0 ∧
    ChangesOnly [.pr, .result] s t

/-- The command completed with `S[sd] = v`; beside S and RESULT only the parts in `also` may have
changed. -/
def WroteS (also : List Part) (sd : SReg) (v : SecretKey) (s t : State) : Prop :=
  t.getS sd = v ∧ (∀ j, j ≠ sd → t.getS j = s.getS j) ∧ t.result = 0 ∧
    ChangesOnly ([.sk, .result] ++ also) s t

/-- The command completed with `C[cd] = v`; beside C and RESULT only the parts in `also` may have
changed. -/
def WroteC (also : List Part) (cd : CReg) (v : Ciphertext) (s t : State) : Prop :=
  t.getC cd = v ∧ (∀ j, j ≠ cd → t.getC j = s.getC j) ∧ t.result = 0 ∧
    ChangesOnly ([.ct, .result] ++ also) s t

/-- The command completed having stored inside the `n` bytes at `a` only, and nothing else changed
but RESULT. -/
def StoredIn (a n : Nat) (s t : State) : Prop :=
  MemOutside a n s t ∧ t.result = 0 ∧ ChangesOnly [.mem, .result] s t

/-- The oracle's coming answers and count after `n` requests (00_scope.md R16). -/
def OracleAsked (n : Nat) (s t : State) : Prop := t.entropy = s.entropy.drop n ∧ t.draws = s.draws + n

/-- The command raised `E_RANDOMNESS` after `n` requests: RESULT holds code 1, and nothing else of
the engine changed (60_exceptions.md R293). -/
def RaisedRandomness (n : Nat) (s t : State) : Prop :=
  t.result = 1 ∧ OracleAsked n s t ∧ ChangesOnly [.result, .oracle] s t

/-- The commands of a list, one after another (20_memory.md R62), while each answers a next state. -/
def runCommands : List Instr → State → Option State
  | [], s => some s
  | i :: rest, s =>
    match exec i s with
    | .next t => runCommands rest t
    | .fault _ => none
    | .refused _ => none

/-- The generator that answers the next `GenNext` (44_counter_generator.md R191): G itself once it is
seeded; else one freshly seeded by the oracle's answer, `none` where that is `fail`. -/
def generatorUsed (s : State) : Option Generator :=
  if s.g.seeded then some s.g
  else s.nextAnswer.map fun e => { seeded := true, rk := keyExpansion e, ctr := 0 }

/-- How many oracle requests the next `GenNext` makes (R191). -/
def generatorRequests (s : State) : Nat := if s.g.seeded then 0 else 1

/-! ## Command words, from the tables (30_encoding.md R72, R75, R83) -/

/-- `w = (op << 24) | (a << 20) | (b << 16) | (c << 12) | (d << 8) | (e << 4)` (R83). -/
def wordR (op : Nat) (a b c d e : Fin 16) : CommandWord :=
  BitVec.ofNat 32 (op * 2 ^ 24 + a * 2 ^ 20 + b * 2 ^ 16 + c * 2 ^ 12 + d * 2 ^ 8 + e * 2 ^ 4)

/-- `w = (op << 24) | (a << 20) | imm16` (R83). -/
def wordI (op : Nat) (a : Fin 16) (imm : BitVec 16) : CommandWord :=
  BitVec.ofNat 32 (op * 2 ^ 24 + a * 2 ^ 20 + imm.toNat)

/-- Opcode and mask of every row of R75, from its format's mask in R72. -/
def commandTable : List (BitVec 8 × CommandWord) :=
  [(0x00, 0xFFFFFFFF), (0x01, 0xFF0F0000), (0x02, 0xFF0F0000), (0x03, 0xFF000FFF),
    (0x04, 0xFF00FFFF), (0x05, 0xFF00FFFF), (0x06, 0xFF00FFFF), (0x07, 0xFF00FFFF)] ++
  [(0x10, 0xFF0FFFFF), (0x11, 0xFF00FFFF), (0x12, 0xFF000FFF), (0x13, 0xFF0FFFFF),
    (0x14, 0xFF000FFF), (0x15, 0xFF0000FF)] ++
  [(0x20, 0xFF000FFF), (0x21, 0xFF00000F), (0x24, 0xFF000FFF), (0x25, 0xFF0000FF)] ++
  [(0x30, 0xFF00FFFF), (0x31, 0xFF0FFFFF), (0x32, 0xFF0000FF), (0x33, 0xFF0000FF),
    (0x34, 0xFF000FFF), (0x35, 0xFF000FFF)] ++
  [(0x40, 0xFF0FFFFF), (0x41, 0xFF0FFFFF)] ++
  [(0x50, 0xFF000FFF), (0x51, 0xFF000FFF), (0x52, 0xFF00FFFF), (0x53, 0xFF00FFFF),
    (0x54, 0xFF00FFFF), (0x55, 0xFF00FFFF), (0x56, 0xFF0000FF), (0x57, 0xFF0FFFFF),
    (0x58, 0xFF000FFF), (0x59, 0xFF000FFF), (0x5A, 0xFF0FFFFF)] ++
  [(0x60, 0xFF000FFF), (0x61, 0xFF000FFF), (0x70, 0xFF000FFF), (0x71, 0xFF000FFF)]

/-- A legal word (R72, R76): some row's `w and mask = match`, where `match` is `op << 24`. -/
def LegalWord (w : CommandWord) : Prop :=
  ∃ row ∈ commandTable, w &&& row.2 = row.1.zeroExtend 32 <<< 24

/-! ## Which command may end how, and change what -/

/-- The codes a legal command can return (60_exceptions.md R292), `OK` among them. -/
def resultCodes : Instr → List (BitVec 8)
  | .nop | .li _ _ | .lih _ _ | .mkb _ _ _ | .xbh _ _ | .xbl _ _ | .kexp _ _ | .ro _ _ _
  | .gseed _ => [0]
  | .ldb _ _ | .stb _ _ => [0, 9]
  | .kgen _ => [0, 1]
  | .kexpm _ _ _ => [0, 8, 9]
  | .kclr _ | .pclr _ | .sclr _ => [0, 3]
  | .aese _ _ _ | .prf _ _ _ | .pkexp _ _ => [0, 3]
  | .aesem _ _ _ _ => [0, 3, 9, 2]
  | .prfm _ _ _ _ _ => [0, 3, 8, 9, 2]
  | .rom _ _ _ _ => [0, 9, 2]
  | .prpe _ _ _ _ | .prpd _ _ _ _ => [0, 3, 2]
  | .prpea _ _ _ | .prpda _ _ _ => [0, 3, 2, 9]
  | .gnext _ => [0, 1]
  | .pinitb _ _ _ | .pinitl _ _ _ => [0, 2]
  | .csize _ _ | .cszl _ _ | .cszr _ _ => [0, 2]
  | .setup _ _ => [0, 2, 1]
  | .skset _ _ _ _ => [0, 2]
  | .cinit _ _ _ | .cload _ _ _ => [0, 2, 7]
  | .cclr _ => [0, 4]
  | .oreenc _ _ _ => [0, 3, 4, 5, 2, 6]
  | .obenc _ _ _ => [0, 3, 4, 5, 2, 6, 1]
  | .orecmp _ _ _ | .obcmp _ _ _ => [0, 4, 5, 2]

/-- The parts a command may write: the column "command write" of 10_state.md R45 and the writers of
X and B in R21, R23, with RESULT for every command; and the oracle for the commands whose rules call
`Entropy` (R120, R191, R192, R210, R262). -/
def writableParts : Instr → List Part
  | .nop => [.result]
  | .li _ _ | .lih _ _ | .xbh _ _ | .xbl _ _ | .ro _ _ _ => [.x, .result]
  | .prpe _ _ _ _ | .prpd _ _ _ _ | .csize _ _ | .cszl _ _ | .cszr _ _ => [.x, .result]
  | .orecmp _ _ _ | .obcmp _ _ _ => [.x, .result]
  | .mkb _ _ _ | .ldb _ _ | .aese _ _ _ | .prf _ _ _ => [.b, .result]
  | .kexp _ _ | .kexpm _ _ _ | .kclr _ => [.k, .result]
  | .kgen _ => [.k, .oracle, .result]
  | .pkexp _ _ | .pclr _ => [.p, .result]
  | .pinitb _ _ _ | .pinitl _ _ _ => [.pr, .result]
  | .skset _ _ _ _ | .sclr _ => [.sk, .result]
  | .setup _ _ => [.sk, .oracle, .result]
  | .cinit _ _ _ | .cload _ _ _ => [.ct, .result]
  | .cclr _ | .oreenc _ _ _ => [.ct, .mem, .result]
  | .obenc _ _ _ => [.ct, .mem, .g, .oracle, .result]
  | .stb _ _ | .aesem _ _ _ _ | .prfm _ _ _ _ _ | .rom _ _ _ _ => [.mem, .result]
  | .prpea _ _ _ | .prpda _ _ _ => [.mem, .result]
  | .gseed _ => [.g, .result]
  | .gnext _ => [.b, .g, .oracle, .result]

/-! ## What the host can see (10_state.md R45) -/

/-- Two engines that the host's own accesses do not tell apart: they may differ in the round keys of
K, P, S, in the fields of PR, S and C other than the lifecycle codes, and in `G.rk`, `G.ctr`
(00_scope.md R6, 10_state.md R45). -/
def HostSame (s t : State) : Prop :=
  (∀ q ∈ [Part.x, .b, .result, .memSize, .inbox, .replies, .oracle], samePart q s t) ∧
    t.mem = s.mem ∧ (∀ i, (t.getK i).st = (s.getK i).st) ∧ (∀ i, (t.getP i).st = (s.getP i).st) ∧
    (∀ i, (t.getPR i).init = (s.getPR i).init) ∧ (∀ i, (t.getS i).st = (s.getS i).st) ∧
    (∀ i, (t.getC i).st = (s.getC i).st) ∧ t.g.seeded = s.g.seeded

/-! ## Invariants -/

/-- The bounds of an initialised Params value (10_state.md R32). -/
abbrev paramsValid (p : Params) : Prop :=
  p.init = true ∧
    (p.scheme = .basic → 2 ≤ p.bp.toNat ∧ p.bp.toNat ≤ 128) ∧
    (p.scheme = .block →
      1 ≤ p.bp.toNat ∧ p.bp.toNat ≤ 16 ∧ divUp p.bp.toNat 8 ≤ divUp p.nbits.toNat 8)

/-- Every initialised Params value is within its bounds (10_state.md R32), in PR and in the copies
that S and C hold, and a BASIC SecretKey has no PRP key (R33). -/
def ParamsBounds (s : State) : Prop :=
  (∀ i, (s.getPR i).init = true → paramsValid (s.getPR i)) ∧
    (∀ i, (s.getS i).st = .initialized →
      paramsValid (s.getS i).par ∧ ((s.getS i).par.scheme = .basic → (s.getS i).prp = zeroKey)) ∧
    (∀ i, ctUsable (s.getC i).st → paramsValid (s.getC i).par)

/-- Zeroisation (10_state.md R27). -/
def Zeroised (s : State) : Prop :=
  (∀ i, (s.getK i).st ≠ .initialized → (s.getK i).rk = zeroKey) ∧
    (∀ i, (s.getP i).st ≠ .initialized → (s.getP i).rk = zeroPrpKeys) ∧
    (∀ i, (s.getS i).st ≠ .initialized →
      (s.getS i).par = zeroParams ∧ (s.getS i).prf = zeroKey ∧ (s.getS i).prp = zeroKey) ∧
    (∀ i, ¬ ctUsable (s.getC i).st → (s.getC i).par = zeroParams ∧ (s.getC i).base = 0)

/-- MEM_SIZE is at least 16 (00_scope.md R9), the buffer memory is in its canonical form inside
`[0, MEM_SIZE)`, and every descriptor that hosts a ciphertext lies inside M (45_ore_objects.md R216,
R217, R218). -/
def BuffersInBounds (s : State) : Prop :=
  Config.memSizeMin ≤ s.memSize ∧ s.mem.wf = true ∧ (∀ cell ∈ s.mem.cells, cell.1 < s.memSize) ∧
    (∀ i, ctUsable (s.getC i).st → (s.getC i).base.toNat + totalLen (s.getC i).par ≤ s.memSize)

/-- Round keys are the expansion of the cipher key `rk[0]` (10_state.md R30, R31, R33, R35). -/
abbrev isSchedule (rk : ExpandedKey) : Prop := rk = keyExpansion rk[0]

/-- All key material in use is a key schedule: what `Expand` made of a 16-byte key. -/
def KeysAreSchedules (s : State) : Prop :=
  (∀ i, (s.getK i).st = .initialized → isSchedule (s.getK i).rk) ∧
    (∀ i, (s.getP i).st = .initialized → ∀ j : Fin 3, isSchedule (s.getP i).rk[j]) ∧
    (∀ i, (s.getS i).st = .initialized → isSchedule (s.getS i).prf ∧
      ((s.getS i).par.scheme = .block → isSchedule (s.getS i).prp)) ∧
    (s.g.seeded = true → isSchedule s.g.rk)

/-- RESULT holds one of the codes 0 to 10 (10_state.md R41). -/
def ResultLegal (s : State) : Prop := s.result.toNat ≤ 10

/-- -1, 0 or +1: how `a` compares with `b`. -/
def order (a b : Nat) : Int := if a < b then -1 else if a = b then 0 else 1

/-- Multiplication in GF(2^8) modulo `0x11B` (41_block_cipher_core.md R111, R114). -/
def gfMul (a b : Byte) : Byte :=
  (List.range 8).foldl (fun acc i => if b.getLsbD i then acc ^^^ (xtime^[i] a) else acc) 0

/-- The affine map of the S-box (41_block_cipher_core.md R111): bit `i` of `A(t)` is
`t[i] xor t[i+4] xor t[i+5] xor t[i+6] xor t[i+7] xor c[i]`, indices modulo 8, `c = 0x63`. -/
def sboxAffine (t : Byte) : Byte :=
  t ^^^ t.rotateLeft 4 ^^^ t.rotateLeft 3 ^^^ t.rotateLeft 2 ^^^ t.rotateLeft 1 ^^^ 0x63

end Sys2Proof.Machine
end

