-- ==== Sys2Proof/Certificates/Slice0/Obligations.lean ====
section
/-! DEFINITION. The statements about the model, from the numbered rules of spec/. `Ends i s post` says
that `exec i s` answers a next state of which `post` holds; a chain of `if` follows the check order
of the command's rule, and its last branch is the command's own effect. `Raised c` is result code `c`
with nothing else changed; the codes are those of 60_exceptions.md R290. The premise `s.mem.wf` is
part of the invariant `BuffersInBounds`, `ParamsBounds` is an invariant of its own; both are stated. -/

open Sys2Proof Sys2Proof.Machine

/-! ## Encoding, stepping, the host -/

/-- Decoding and encoding are inverse to each other (30_encoding.md R71, R83). -/
def Obligations.DecodeAndEncodeAgree : Prop :=
  ∀ (w : CommandWord) (i : Instr), decode w = .ok i ↔ w = encode i

/-- The word of every command is the sum of its shifted fields (30_encoding.md R75, R83). -/
def Obligations.EncodeFollowsTheOpcodeMap : Prop :=
  encode .nop = wordR 0x00 0 0 0 0 0 ∧
  (∀ xd imm, encode (.li xd imm) = wordI 0x01 xd imm ∧ encode (.lih xd imm) = wordI 0x02 xd imm) ∧
  (∀ a : Fin 16, encode (.kgen a) = wordR 0x10 a 0 0 0 0 ∧ encode (.kclr a) = wordR 0x13 a 0 0 0 0 ∧
    encode (.pclr a) = wordR 0x31 a 0 0 0 0 ∧ encode (.gnext a) = wordR 0x40 a 0 0 0 0 ∧
    encode (.gseed a) = wordR 0x41 a 0 0 0 0 ∧ encode (.sclr a) = wordR 0x57 a 0 0 0 0 ∧
    encode (.cclr a) = wordR 0x5A a 0 0 0 0) ∧
  (∀ a b : Fin 16, encode (.xbh a b) = wordR 0x04 a b 0 0 0 ∧ encode (.xbl a b) = wordR 0x05 a b 0 0 0 ∧
    encode (.ldb a b) = wordR 0x06 a b 0 0 0 ∧ encode (.stb a b) = wordR 0x07 a b 0 0 0 ∧
    encode (.kexp a b) = wordR 0x11 a b 0 0 0 ∧ encode (.pkexp a b) = wordR 0x30 a b 0 0 0 ∧
    encode (.csize a b) = wordR 0x52 a b 0 0 0 ∧ encode (.cszl a b) = wordR 0x53 a b 0 0 0 ∧
    encode (.cszr a b) = wordR 0x54 a b 0 0 0 ∧ encode (.setup a b) = wordR 0x55 a b 0 0 0) ∧
  (∀ a b c : Fin 16, encode (.mkb a b c) = wordR 0x03 a b c 0 0 ∧
    encode (.kexpm a b c) = wordR 0x12 a b c 0 0 ∧ encode (.aese a b c) = wordR 0x14 a b c 0 0 ∧
    encode (.prf a b c) = wordR 0x20 a b c 0 0 ∧ encode (.ro a b c) = wordR 0x24 a b c 0 0 ∧
    encode (.prpea a b c) = wordR 0x34 a b c 0 0 ∧ encode (.prpda a b c) = wordR 0x35 a b c 0 0 ∧
    encode (.pinitb a b c) = wordR 0x50 a b c 0 0 ∧ encode (.pinitl a b c) = wordR 0x51 a b c 0 0 ∧
    encode (.cinit a b c) = wordR 0x58 a b c 0 0 ∧ encode (.cload a b c) = wordR 0x59 a b c 0 0 ∧
    encode (.oreenc a b c) = wordR 0x60 a b c 0 0 ∧ encode (.orecmp a b c) = wordR 0x61 a b c 0 0 ∧
    encode (.obenc a b c) = wordR 0x70 a b c 0 0 ∧ encode (.obcmp a b c) = wordR 0x71 a b c 0 0) ∧
  (∀ a b c d : Fin 16, encode (.aesem a b c d) = wordR 0x15 a b c d 0 ∧
    encode (.rom a b c d) = wordR 0x25 a b c d 0 ∧ encode (.prpe a b c d) = wordR 0x32 a b c d 0 ∧
    encode (.prpd a b c d) = wordR 0x33 a b c d 0 ∧ encode (.skset a b c d) = wordR 0x56 a b c d 0) ∧
  (∀ a b c d e : Fin 16, encode (.prfm a b c d e) = wordR 0x21 a b c d e)

/-- A word selects a command exactly when some row of the table matches it (30_encoding.md R72). -/
def Obligations.LegalWordsAreTheTableRows : Prop :=
  ∀ w : CommandWord, (∃ i, decode w = .ok i) ↔ LegalWord w

/-- An illegal word returns `E_ILLEGAL`, changes nothing but RESULT, and the engine goes on
(30_encoding.md R76). The list of transactions and the list of returned values are the model's
(logs 3, 4). -/
def Obligations.IllegalWordOnlySetsResult : Prop :=
  ∀ (s : State) (w : CommandWord) (rest : List HostTx), ¬ LegalWord w → s.inbox = .issue w :: rest →
    ∃ t, step s = .next t ∧ t.result = 10 ∧ t.replies = s.replies ++ [.code 10] ∧ t.inbox = rest ∧
      ChangesOnly [.result, .replies, .inbox] s t

/-- Words that the spec writes out decode to the commands it says (rules R91 to R264, examples). -/
def Obligations.SpecWordsDecodeToTheirCommands : Prop :=
  decode 0x00000000 = .ok .nop ∧ decode 0x01301234 = .ok (.li 3 0x1234) ∧
  decode 0x03012000 = .ok (.mkb 0 1 2) ∧ decode 0x07240000 = .ok (.stb 2 4) ∧
  decode 0x10300000 = .ok (.kgen 3) ∧ decode 0x15012300 = .ok (.aesem 0 1 2 3) ∧
  decode 0x21012340 = .ok (.prfm 0 1 2 3 4) ∧ decode 0x25123000 = .ok (.rom 1 2 3 0) ∧
  decode 0x32301200 = .ok (.prpe 3 0 1 2) ∧ decode 0x40100000 = .ok (.gnext 1) ∧
  decode 0x56010100 = .ok (.skset 0 1 0 1) ∧ decode 0x61201000 = .ok (.orecmp 2 0 1) ∧
  decode 0x71210000 = .ok (.obcmp 2 1 0) ∧ decode 0x00000001 = .error (.nonzeroMbz 0x00)

/-- A step whose next transaction is `Issue(w)`, with `w` the word of a command, is that command's
execution, after which the result code is returned (30_encoding.md R71); the table's numbering of a
word reaches the same step (`withFetchWord`, logs 3 and 20). -/
def Obligations.StepRunsTheDecodedCommand : Prop :=
  (∀ (s t : State) (w : CommandWord) (rest : List HostTx) (i : Instr), s.inbox = .issue w :: rest →
    decode w = .ok i → exec i { s with inbox := rest } = .next t →
      step s = .next { t with replies := t.replies ++ [.code t.result] }) ∧
  (∀ (s t : State) (nbits w : Nat) (i : Instr), decodeTableWord nbits w = some i → exec i s = .next t →
      step (s.withFetchWord nbits w) = .next { t with replies := t.replies ++ [.code t.result] })

/-- No command stops the engine, a step never faults, an engine without a transaction waits, and
only a host memory access outside M is refused (60_exceptions.md R295, R298; logs 3, 8). -/
def Obligations.EngineNeverStops : Prop :=
  (∀ (i : Instr) (s : State), ∃ t, exec i s = .next t) ∧
  (∀ s : State, s.inbox = [] → step s = .next s) ∧
  (∀ (s : State) (r : Fault), step s ≠ .fault r) ∧
  (∀ (s : State) (r : Refusal), step s = .refused r → r = .hostRangeOutsideMemory ∧
    ∃ rest, (∃ a n, s.inbox = .readMem a n :: rest ∧ s.memSize < a + n) ∨
      (∃ a bytes, s.inbox = .writeMem a bytes :: rest ∧ s.memSize < a + bytes.length))

/-- What the host's register and memory transactions do (00_scope.md R8, 10_state.md R36). That a
step takes a transaction from a list and keeps the returned value is the model's (logs 3, 4). -/
def Obligations.HostReachesRegistersAndMemory : Prop :=
  ∀ (s : State) (rest : List HostTx), s.mem.wf = true →
    (∀ i, s.inbox = .readX i :: rest →
      step s = .next { s with inbox := rest, replies := s.replies ++ [.scalar (s.getX i)] }) ∧
    (∀ i, s.inbox = .readB i :: rest →
      step s = .next { s with inbox := rest, replies := s.replies ++ [.block (s.getB i)] }) ∧
    (∀ i v, s.inbox = .writeX i v :: rest → ∃ t, step s = .next t ∧ t.inbox = rest ∧ t.getX i = v ∧
      (∀ j, j ≠ i → t.getX j = s.getX j) ∧ ChangesOnly [.x, .inbox] s t) ∧
    (∀ i v, s.inbox = .writeB i v :: rest → ∃ t, step s = .next t ∧ t.inbox = rest ∧ t.getB i = v ∧
      (∀ j, j ≠ i → t.getB j = s.getB j) ∧ ChangesOnly [.b, .inbox] s t) ∧
    (∀ a n, s.inbox = .readMem a n :: rest → a + n ≤ s.memSize → ∃ bytes : List Byte,
      step s = .next { s with inbox := rest, replies := s.replies ++ [.bytes bytes] } ∧
      bytes.length = n ∧ ∀ k (h : k < bytes.length), bytes[k] = s.mem.read (a + k)) ∧
    (∀ a bytes, s.inbox = .writeMem a bytes :: rest → a + bytes.length ≤ s.memSize →
      ∃ t, step s = .next t ∧ t.inbox = rest ∧ MemOutside a bytes.length s t ∧
        ChangesOnly [.mem, .inbox] s t ∧
        ∀ k (h : k < bytes.length), t.mem.read (a + k) = bytes[k])

/-- The control registers (10_state.md R41, R42, R43), and that reading one changes nothing
but the list of returned values, which is the model's (R40; log 4). -/
def Obligations.ControlRegistersViewTheState : Prop :=
  ∀ s : State,
    ((s.controlRegister 0).extractLsb' 0 8 = s.result ∧ (s.controlRegister 0).extractLsb' 8 24 = 0) ∧
    (∀ i : Fin 16,
      (s.controlRegister 1).extractLsb' (2 * i) 2 =
        (match (s.getK i).st with | .uninitialized => 0 | .initialized => 1 | .cleared => 3) ∧
      (s.controlRegister 2).extractLsb' (2 * i) 2 =
        (match (s.getP i).st with | .uninitialized => 0 | .initialized => 1 | .cleared => 3) ∧
      (s.controlRegister 3).extractLsb' (2 * i) 2 = (if (s.getPR i).init then 1 else 0) ∧
      (s.controlRegister 4).extractLsb' (2 * i) 2 =
        (match (s.getS i).st with | .uninitialized => 0 | .initialized => 1 | .cleared => 3) ∧
      (s.controlRegister 5).extractLsb' (2 * i) 2 =
        (match (s.getC i).st with
          | .uninitialized => 0 | .initialized => 1 | .populated => 2 | .cleared => 3)) ∧
    ((s.controlRegister 6).getLsbD 0 = s.g.seeded ∧ (s.controlRegister 6).extractLsb' 1 31 = 0) ∧
    (∀ n, 6 < n → s.controlRegister n = 0) ∧
    (∀ n rest, s.inbox = .readCR n :: rest →
      step s = .next { s with inbox := rest, replies := s.replies ++ [.control (s.controlRegister n)] }) ∧
    (∀ n, State.reset.controlRegister n = 0)

/-- Every state after `Reset()`, and after power-on with any memory, holds the values of
10_state.md R46; M keeps its bytes (70_reset_and_hazards.md R320, R321). `Reset()` writing RESULT is
the reading of log 10; the transaction list is log 3's. -/
def Obligations.ResetLeavesTheListedValues : Prop :=
  let listed (t : State) : Prop :=
    (∀ i, t.getX i = 0) ∧ (∀ i, t.getB i = 0) ∧
    (∀ i, (t.getK i).st = .uninitialized ∧ ∀ r : Fin 11, (t.getK i).rk[r] = 0) ∧
    (∀ i, (t.getP i).st = .uninitialized ∧ ∀ (q : Fin 3) (r : Fin 11), (t.getP i).rk[q][r] = 0) ∧
    (∀ i, t.getPR i = { init := false, scheme := .basic, nbits := 0, bp := 0 }) ∧
    (∀ i, (t.getS i).st = .uninitialized ∧
      (t.getS i).par = { init := false, scheme := .basic, nbits := 0, bp := 0 } ∧
      ∀ r : Fin 11, (t.getS i).prf[r] = 0 ∧ (t.getS i).prp[r] = 0) ∧
    (∀ i, t.getC i = { st := .uninitialized, base := 0
                       par := { init := false, scheme := .basic, nbits := 0, bp := 0 } }) ∧
    t.g.seeded = false ∧ (∀ r : Fin 11, t.g.rk[r] = 0) ∧ t.g.ctr = 0 ∧ t.result = 0
  (∀ (m : Memory) (size : Config.MemSize), listed (State.powerOn m size) ∧
    (State.powerOn m size).mem = m ∧ (State.powerOn m size).memSize = size) ∧
  (∀ (s : State) (rest : List HostTx), s.inbox = .reset :: rest →
    ∃ t, step s = .next t ∧ listed t ∧ t.mem = s.mem ∧ t.inbox = rest)

/-- No transaction but `Issue` tells apart two engines that differ only in what the host cannot read:
round keys, the fields of PR, S and C beside the lifecycle codes, `G.rk`, `G.ctr`
(10_state.md R45, 00_scope.md R6). The refusal of a range outside M is the model's (log 8). -/
def Obligations.HostCannotTellKeysApart : Prop :=
  ∀ (s t : State) (tx : HostTx) (rest : List HostTx), HostSame s t → s.inbox = tx :: rest →
    (∀ w, tx ≠ .issue w) →
      (∃ s' t', step s = .next s' ∧ step t = .next t' ∧ HostSame s' t') ∨
      (step s = .refused .hostRangeOutsideMemory ∧ step t = .refused .hostRangeOutsideMemory)

/-- A step takes the host's oldest transaction and no other, returns at most one value, leaves the
parameter MEM_SIZE, and keeps RESULT among the codes 0 to 10 (20_memory.md R62, 10_state.md R41; the
lists are the model's, logs 3, 4). -/
def Obligations.StepTakesOneTransaction : Prop :=
  ∀ s t : State, step s = .next t →
    t.inbox = s.inbox.tail ∧ t.memSize = s.memSize ∧
    (t.replies = s.replies ∨ ∃ r, t.replies = s.replies ++ [r]) ∧ (ResultLegal s → ResultLegal t)

/-! ## Bytes, memory, the cipher -/

/-- `MemRead` and `MemWrite` are big-endian, and a write touches its own bytes only
(20_memory.md R53, R54). -/
def Obligations.MemoryIsBigEndian : Prop :=
  (∀ (m : Memory) (a n : Nat),
    m.readBE a n = ∑ k : Fin n, (m.read (a + k)).toNat * 256 ^ (n - 1 - k)) ∧
  (∀ (m : Memory) (a : Nat) (k : Fin 16), blockByte (m.readBlock a) k = m.read (a + k)) ∧
  (∀ (m : Memory) (a n v : Nat), m.wf = true → v < 256 ^ n →
    (m.writeBE a n v).readBE a n = v ∧
    (∀ k, k < n → ((m.writeBE a n v).read (a + k)).toNat = v / 256 ^ (n - 1 - k) % 256) ∧
    (∀ c, c < a ∨ a + n ≤ c → (m.writeBE a n v).read c = m.read c))

/-- `BE` is the sum of the bytes times powers of 256, and `toBE` inverts it (00_scope.md R14). -/
def Obligations.ByteStringsAndIntegers : Prop :=
  (∀ s : List Byte, be s = ∑ k : Fin s.length, (s[k]).toNat * 256 ^ (s.length - 1 - k)) ∧
  (∀ v n : Nat, v < 256 ^ n → (toBE v n).length = n ∧ be (toBE v n) = v)

/-- The words of the key schedule obey the recurrence of 41_block_cipher_core.md R116 with the round
constants of R115. -/
def Obligations.KeyScheduleRecurrence : Prop :=
  ∀ (key : Block) (w : Nat → KeyWord),
    (∀ (r : Fin 11) (j : Fin 4), w (4 * r + j) = keyWord (keyExpansion key)[r] j) →
      (keyExpansion key)[0] = key ∧
      (∀ r : Fin 10, ∃ rcon : Byte,
        [0x01, 0x02, 0x04, 0x08, 0x10, 0x20, 0x40, 0x80, 0x1B, 0x36][r]? = some rcon ∧
        w (4 * r + 4) = w (4 * r) ^^^
          (sbox ((w (4 * r + 3)).extractLsb' 16 8) ^^^ rcon) ++ sbox ((w (4 * r + 3)).extractLsb' 8 8) ++
            sbox ((w (4 * r + 3)).extractLsb' 0 8) ++ sbox ((w (4 * r + 3)).extractLsb' 24 8)) ∧
      (∀ i, 4 ≤ i → i < 44 → i % 4 ≠ 0 → w i = w (i - 4) ^^^ w (i - 1))

/-- The cipher byte by byte: `SubBytes`, `ShiftRows`, `MixColumns`, the initial key addition, nine
full rounds and the last round (41_block_cipher_core.md R112, R113, R114, R117); and under every
eleven round keys it permutes the blocks (R117). `s r` is the state before round `r + 1`. -/
def Obligations.CipherIsAPermutation : Prop :=
  (∀ (b : Block) (k : Fin 16), blockByte (subBytes b) k = sbox (blockByte b k)) ∧
  (∀ (b : Block) (r c : Fin 4),
    blockByte (shiftRows b) (r + 4 * c) = blockByte b (r + 4 * ((c + r : Nat) % 4))) ∧
  (∀ a : Byte,
    (gfMul 2 a).toNat = (2 * a.toNat % 256) ^^^ (if a.getLsbD 7 then 0x1B else 0) ∧
      gfMul 3 a = gfMul 2 a ^^^ a) ∧
  (∀ (b : Block) (c : Fin 4),
    let a (r : Nat) := blockByte b (4 * c + r)
    let m (r : Nat) := blockByte (mixColumns b) (4 * c + r)
    m 0 = gfMul 2 (a 0) ^^^ gfMul 3 (a 1) ^^^ a 2 ^^^ a 3 ∧
    m 1 = a 0 ^^^ gfMul 2 (a 1) ^^^ gfMul 3 (a 2) ^^^ a 3 ∧
    m 2 = a 0 ^^^ a 1 ^^^ gfMul 2 (a 2) ^^^ gfMul 3 (a 3) ∧
    m 3 = gfMul 3 (a 0) ^^^ a 1 ^^^ a 2 ^^^ gfMul 2 (a 3)) ∧
  (∀ (rk : ExpandedKey) (b : Block), ∃ s : Nat → Block,
    s 0 = b ^^^ rk[0] ∧
    (∀ r, (h : r < 9) → s (r + 1) = mixColumns (shiftRows (subBytes (s r))) ^^^ rk[r + 1]) ∧
    aes rk b = shiftRows (subBytes (s 9)) ^^^ rk[10]) ∧
  ∀ rk : ExpandedKey, Function.Bijective (aes rk)

/-- The S-box is the affine map of the inverse in GF(2^8) (41_block_cipher_core.md R111). -/
def Obligations.SboxIsAffineOfInverse : Prop :=
  sbox 0 = sboxAffine 0 ∧
    ∀ x : Byte, x ≠ 0 → ∃ y : Byte, gfMul x y = 1 ∧ sbox x = sboxAffine y

/-! ## The functions of the ORE schemes -/

/-- `BasicEncrypt` block by block, with the prefix before bit `i` written as the message's upper
bits (46_basic_ore.md R241). -/
def Obligations.BasicEncryptBlocks : Prop :=
  ∀ (prf : ExpandedKey) (nbits obl msg : Nat), nbits ≤ 64 → 2 ≤ obl → obl ≤ 128 → msg < 2 ^ 64 →
    let m := msg % 2 ^ nbits
    let bytes := basicEncrypt prf nbits obl msg
    bytes.length = divUp (nbits * obl) 8 ∧ be bytes < 2 ^ (nbits * obl) ∧
    ∀ i, i < nbits →
      (be bytes >>> ((nbits - 1 - i) * obl)) % 2 ^ obl =
        ((aes prf (pair i (m >>> (nbits - i)))).toNat % 2 ^ obl + (m >>> (nbits - 1 - i)) % 2) % 2 ^ obl

/-- `BlockEncrypt` record by record, with the prefix before chunk `i` written as the message's upper
bits: lengths, nonce, key value, `pix`, fill and every slot of the right vector
(47_block_ore.md R260, R261), where `pix` fits its field (45_ore_objects.md R202; log 15). -/
def Obligations.BlockEncryptLayout : Prop :=
  ∀ (prf prp : ExpandedKey) (nbits bl msg : Nat) (nonce : Block), nbits ≤ 64 → bl % 2 = 0 → 2 ≤ bl →
    bl ≤ 16 → divUp bl 8 ≤ divUp nbits 8 → msg < 2 ^ 64 →
    let m := msg % 2 ^ nbits
    let nb := divUp nbits bl
    let w := 16 + divUp nbits 8
    let v := divUp (2 ^ bl) 8
    let left := (blockEncrypt prf prp nbits bl msg nonce).1
    let right := (blockEncrypt prf prp nbits bl msg nonce).2
    left.length = nb * w ∧ right.length = 16 + nb * v ∧ slice right 0 16 = blockBytes nonce ∧
    ∀ i, i < nb →
      let pre := m >>> ((nb - i) * bl)
      let chunk := (m >>> ((nb - 1 - i) * bl)) % 2 ^ bl
      let keys := prpKeyExpand (keyExpansion (aes prp (pair i pre)))
      let pix := prpFwd keys chunk bl
      slice left (i * w) 16 = blockBytes (aes prf (pair i (pre <<< bl ||| pix))) ∧
      be (slice left (i * w + 16) (divUp bl 8)) = pix ∧ pix < 2 ^ bl ∧
      slice left (i * w + 16 + divUp bl 8) (w - 16 - divUp bl 8) =
        List.replicate (w - 16 - divUp bl 8) 0 ∧
      be (slice right (16 + i * v) v) < 2 ^ (2 ^ bl) ∧
      ∀ j, j < 2 ^ bl →
        (be (slice right (16 + i * v) v)).testBit j =
          (decide (prpInv keys j bl ≤ chunk) ^^
            (aes (keyExpansion nonce) (aes prf (pair i (pre <<< bl ||| j)))).getLsbD 0)

/-- Both comparisons are decided at the first block that differs (46_basic_ore.md R243,
47_block_ore.md R263). -/
def Obligations.CompareDecidesAtFirstDifference : Prop :=
  (∀ (nbits obl : Nat) (ca cb : List Byte),
    let blockA (i : Nat) := (be ca >>> ((nbits - 1 - i) * obl)) % 2 ^ obl
    let blockB (i : Nat) := (be cb >>> ((nbits - 1 - i) * obl)) % 2 ^ obl
    ((∀ i, i < nbits → blockA i = blockB i) → basicCompare nbits obl ca cb = 0) ∧
    ∀ i, i < nbits → (∀ j, j < i → blockA j = blockB j) → blockA i ≠ blockB i →
      basicCompare nbits obl ca cb =
        if (blockA i + 2 ^ obl - blockB i) % 2 ^ obl = 1 then 1 else -1) ∧
  (∀ (nbits bl : Nat) (leftA leftB rightB : List Byte),
    let nb := divUp nbits bl
    let w := 16 + divUp nbits 8
    let v := divUp (2 ^ bl) 8
    let keyA (i : Nat) := slice leftA (i * w) 16
    let keyB (i : Nat) := slice leftB (i * w) 16
    ((∀ i, i < nb → keyA i = keyB i) → blockCompare nbits bl leftA leftB rightB = some 0) ∧
    ∀ i, i < nb → (∀ j, j < i → keyA j = keyB j) → keyA i ≠ keyB i →
      let pix := be (slice leftA (i * w + 16) (divUp bl 8))
      let bit := (be (slice rightB (16 + i * v) v)).testBit pix
      let mask := (aes (keyExpansion (blockOfBytes (slice rightB 0 16))) (blockOfBytes (keyA i))).getLsbD 0
      blockCompare nbits bl leftA leftB rightB =
        if 2 ^ bl ≤ pix then none else if (bit ^^ mask) = true then some (-1) else some 1)

/-- The Feistel permutation is three rounds over the two halves, and it and its inverse undo each other
on every domain, for every key set (43_prp_feistel.md R162, R163, R172). -/
def Obligations.PrpRoundTrip : Prop :=
  ∀ (keys : PrpKeys) (n x : Nat), n % 2 = 0 → n ≤ 64 → x < 2 ^ n →
    prpInv keys (prpFwd keys x n) n = x ∧ prpFwd keys (prpInv keys x n) n = x ∧
    prpFwd keys x n < 2 ^ n ∧ prpInv keys x n < 2 ^ n ∧
    let h := n / 2
    let f (i : Fin 3) (r : Nat) := (aes keys[i] (BitVec.ofNat 128 r)).toNat % 2 ^ h
    let r1 := x / 2 ^ h ^^^ f 0 (x % 2 ^ h)
    let r2 := x % 2 ^ h ^^^ f 1 r1
    let r3 := r1 ^^^ f 2 r2
    prpFwd keys x n = r2 * 2 ^ h + r3

/-- BasicORE ciphertexts of one key compare as their messages do (46_basic_ore.md R245). -/
def Obligations.BasicOrderIsRevealed : Prop :=
  ∀ (prf : ExpandedKey) (nbits obl x y : Nat), nbits ≤ 64 → 2 ≤ obl → obl ≤ 128 →
    basicCompare nbits obl (basicEncrypt prf nbits obl x) (basicEncrypt prf nbits obl y) =
      order (x % 2 ^ nbits) (y % 2 ^ nbits)

/-- BlockORE ciphertexts of one key pair compare as their messages do, under any nonces; the left
component does not depend on the nonce, and different nonces give different right components
(47_block_ore.md R265), for Params that PINITL accepts (45_ore_objects.md R202). -/
def Obligations.BlockOrderIsRevealed : Prop :=
  ∀ (prf prp : ExpandedKey) (nbits bl x y : Nat) (n1 n2 : Block), nbits ≤ 64 → bl % 2 = 0 → 2 ≤ bl →
    bl ≤ 16 → divUp bl 8 ≤ divUp nbits 8 →
    let a := blockEncrypt prf prp nbits bl x n1
    let b := blockEncrypt prf prp nbits bl y n2
    blockCompare nbits bl a.1 b.1 b.2 = some (order (x % 2 ^ nbits) (y % 2 ^ nbits)) ∧
    (x % 2 ^ nbits = y % 2 ^ nbits → a.1 = b.1) ∧ (n1 ≠ n2 → a.2 ≠ b.2)

/-! ## Data movement -/

/-- NOP writes RESULT and nothing else; no other word is NOP (40_data_movement.md R90). -/
def Obligations.NopOnlySetsResult : Prop :=
  (∀ w, decode w = .ok .nop ↔ w = 0x00000000) ∧
  ∀ s : State, Ends .nop s fun t => t.result = 0 ∧ ChangesOnly [.result] s t

/-- The five moves without a check (40_data_movement.md R91 to R95). -/
def Obligations.RegisterMoves : Prop :=
  ∀ s : State,
    (∀ xd imm, decode (wordI 0x01 xd imm) = .ok (.li xd imm) ∧
      Ends (.li xd imm) s (WroteX xd (BitVec.ofNat 64 imm.toNat) s)) ∧
    (∀ xd imm, decode (wordI 0x02 xd imm) = .ok (.lih xd imm) ∧
      Ends (.lih xd imm) s
        (WroteX xd (BitVec.ofNat 64 ((s.getX xd).toNat * 2 ^ 16 % 2 ^ 64 ||| imm.toNat)) s)) ∧
    (∀ bd xh xl, decode (wordR 0x03 bd xh xl 0 0) = .ok (.mkb bd xh xl) ∧
      Ends (.mkb bd xh xl) s (WroteB bd (s.getX xh ++ s.getX xl) s)) ∧
    (∀ xd bs, decode (wordR 0x04 xd bs 0 0 0) = .ok (.xbh xd bs) ∧
      Ends (.xbh xd bs) s (WroteX xd (BitVec.ofNat 64 ((s.getB bs).toNat / 2 ^ 64)) s)) ∧
    (∀ xd bs, decode (wordR 0x05 xd bs 0 0 0) = .ok (.xbl xd bs) ∧
      Ends (.xbl xd bs) s (WroteX xd (BitVec.ofNat 64 ((s.getB bs).toNat % 2 ^ 64)) s))

/-- LDB (40_data_movement.md R96): the block's byte `k` is the byte at `addr + k`. -/
def Obligations.LoadBlock : Prop :=
  ∀ (s : State) (bd : BReg) (xa : XReg), decode (wordR 0x06 bd xa 0 0 0) = .ok (.ldb bd xa) ∧
    if s.memSize < s.natX xa + 16 then Ends (.ldb bd xa) s (Raised 9 s)
    else Ends (.ldb bd xa) s fun t => ∃ v : Block, WroteB bd v s t ∧
      ∀ k : Fin 16, blockByte v k = s.mem.read (s.natX xa + k)

/-- STB (40_data_movement.md R97): the byte at `addr + k` becomes the block's byte `k`. -/
def Obligations.StoreBlock : Prop :=
  ∀ (s : State) (bs : BReg) (xa : XReg), s.mem.wf = true →
    decode (wordR 0x07 bs xa 0 0 0) = .ok (.stb bs xa) ∧
    if s.memSize < s.natX xa + 16 then Ends (.stb bs xa) s (Raised 9 s)
    else Ends (.stb bs xa) s fun t => StoredIn (s.natX xa) 16 s t ∧
      ∀ k : Fin 16, t.mem.read (s.natX xa + k) = blockByte (s.getB bs) k

/-! ## The block cipher core -/

/-- KGEN (41_block_cipher_core.md R120): exactly one request; a failure leaves K as it was.
That the answer stands in a list, and is used up by a failure too, is the model's (logs 5, 6). -/
def Obligations.GenerateKey : Prop :=
  ∀ (s : State) (kd : KReg), decode (wordR 0x10 kd 0 0 0 0) = .ok (.kgen kd) ∧
    match s.nextAnswer with
    | none => Ends (.kgen kd) s (RaisedRandomness 1 s)
    | some e => Ends (.kgen kd) s fun t => OracleAsked 1 s t ∧
        WroteK [.oracle] kd { st := .initialized, rk := keyExpansion e } s t

/-- KEXP and KEXPM (41_block_cipher_core.md R121, R122): any old entry is overwritten; the length is
checked before the address. -/
def Obligations.ExpandKey : Prop :=
  ∀ (s : State) (kd : KReg),
    (∀ bs, decode (wordR 0x11 kd bs 0 0 0) = .ok (.kexp kd bs) ∧
      Ends (.kexp kd bs) s (WroteK [] kd { st := .initialized, rk := keyExpansion (s.getB bs) } s)) ∧
    (∀ xa xlen, decode (wordR 0x12 kd xa xlen 0 0) = .ok (.kexpm kd xa xlen) ∧
      if s.natX xlen ≠ 16 then Ends (.kexpm kd xa xlen) s (Raised 8 s)
      else if s.memSize < s.natX xa + 16 then Ends (.kexpm kd xa xlen) s (Raised 9 s)
      else Ends (.kexpm kd xa xlen) s
        (WroteK [] kd { st := .initialized, rk := keyExpansion (s.mem.readBlock (s.natX xa)) } s))

/-- KCLR, PCLR and SCLR: the entry is zeroed and Cleared, or was not Initialized
(41_block_cipher_core.md R124, 43_prp_feistel.md R166, 45_ore_objects.md R215). -/
def Obligations.ClearKeys : Prop :=
  ∀ s : State,
    (∀ kd, decode (wordR 0x13 kd 0 0 0 0) = .ok (.kclr kd) ∧
      if (s.getK kd).st ≠ .initialized then Ends (.kclr kd) s (Raised 3 s)
      else Ends (.kclr kd) s (WroteK [] kd { st := .cleared, rk := Vector.replicate 11 0 } s)) ∧
    (∀ pd, decode (wordR 0x31 pd 0 0 0 0) = .ok (.pclr pd) ∧
      if (s.getP pd).st ≠ .initialized then Ends (.pclr pd) s (Raised 3 s)
      else Ends (.pclr pd) s
        (WroteP pd { st := .cleared, rk := Vector.replicate 3 (Vector.replicate 11 0) } s)) ∧
    (∀ sd, decode (wordR 0x57 sd 0 0 0 0) = .ok (.sclr sd) ∧
      if (s.getS sd).st ≠ .initialized then Ends (.sclr sd) s (Raised 3 s)
      else Ends (.sclr sd) s
        (WroteS [] sd
          { st := .cleared, prf := Vector.replicate 11 0, prp := Vector.replicate 11 0
            par := { init := false, scheme := .basic, nbits := 0, bp := 0 } } s))

/-- AESE and PRF have one meaning (41_block_cipher_core.md R125, 42_prf_random_oracle.md R141). -/
def Obligations.EncryptOneBlock : Prop :=
  ∀ (s : State) (bd : BReg) (ks : KReg) (bs : BReg),
    decode (wordR 0x14 bd ks bs 0 0) = .ok (.aese bd ks bs) ∧
    decode (wordR 0x20 bd ks bs 0 0) = .ok (.prf bd ks bs) ∧
    if (s.getK ks).st ≠ .initialized then
      Ends (.aese bd ks bs) s (Raised 3 s) ∧ Ends (.prf bd ks bs) s (Raised 3 s)
    else
      Ends (.aese bd ks bs) s (WroteB bd (aes (s.getK ks).rk (s.getB bs)) s) ∧
        Ends (.prf bd ks bs) s (WroteB bd (aes (s.getK ks).rk (s.getB bs)) s)

/-- AESEM (41_block_cipher_core.md R126): block `i` of the destination is the encryption of block `i`
of the source as it was before the command. -/
def Obligations.EncryptManyBlocks : Prop :=
  ∀ (s : State) (ks : KReg) (xdst xsrc xn : XReg), s.mem.wf = true →
    decode (wordR 0x15 ks xdst xsrc xn 0) = .ok (.aesem ks xdst xsrc xn) ∧
    let dst := s.natX xdst
    let src := s.natX xsrc
    let n := s.natX xn
    if (s.getK ks).st ≠ .initialized then Ends (.aesem ks xdst xsrc xn) s (Raised 3 s)
    else if s.memSize < src + 16 * n ∨ s.memSize < dst + 16 * n then
      Ends (.aesem ks xdst xsrc xn) s (Raised 9 s)
    else if 0 < n ∧ dst ≠ src ∧ dst < src + 16 * n ∧ src < dst + 16 * n then
      Ends (.aesem ks xdst xsrc xn) s (Raised 2 s)
    else Ends (.aesem ks xdst xsrc xn) s fun t => StoredIn dst (16 * n) s t ∧
      ∀ i, i < n →
        t.mem.readBlock (dst + 16 * i) = aes (s.getK ks).rk (s.mem.readBlock (src + 16 * i))

/-- The batch law (41_block_cipher_core.md R127): where AESEM accepts its operands, the memory after
it is that after `n` single encryptions of the source blocks, in index order. -/
def Obligations.BatchEqualsSingleEncryptions : Prop :=
  ∀ (s : State) (ks : KReg) (xdst xsrc xn : XReg),
    let dst := s.natX xdst
    let src := s.natX xsrc
    let n := s.natX xn
    (s.getK ks).st = .initialized → src + 16 * n ≤ s.memSize → dst + 16 * n ≤ s.memSize →
    (n = 0 ∨ dst = src ∨ src + 16 * n ≤ dst ∨ dst + 16 * n ≤ src) →
      Ends (.aesem ks xdst xsrc xn) s fun t =>
        t.mem = (List.range n).foldl
          (fun m i => m.writeBlock (dst + 16 * i) (aes (s.getK ks).rk (s.mem.readBlock (src + 16 * i))))
          s.mem

/-! ## PRF and random oracle -/

/-- PRFM (42_prf_random_oracle.md R142): lifecycle, input length, output length, addresses, overlap. -/
def Obligations.PrfOnBuffers : Prop :=
  ∀ (s : State) (ks : KReg) (xdst xdlen xsrc xslen : XReg), s.mem.wf = true →
    decode (wordR 0x21 ks xdst xdlen xsrc xslen) = .ok (.prfm ks xdst xdlen xsrc xslen) ∧
    let dst := s.natX xdst
    let src := s.natX xsrc
    if (s.getK ks).st ≠ .initialized then Ends (.prfm ks xdst xdlen xsrc xslen) s (Raised 3 s)
    else if s.natX xslen ≠ 16 ∨ s.natX xdlen ≠ 16 then
      Ends (.prfm ks xdst xdlen xsrc xslen) s (Raised 8 s)
    else if s.memSize < src + 16 ∨ s.memSize < dst + 16 then
      Ends (.prfm ks xdst xdlen xsrc xslen) s (Raised 9 s)
    else if dst ≠ src ∧ dst < src + 16 ∧ src < dst + 16 then
      Ends (.prfm ks xdst xdlen xsrc xslen) s (Raised 2 s)
    else Ends (.prfm ks xdst xdlen xsrc xslen) s fun t => StoredIn dst 16 s t ∧
      t.mem.readBlock dst = aes (s.getK ks).rk (s.mem.readBlock src)

/-- RO (42_prf_random_oracle.md R144, R145): the low bit of the encryption of `B[bkey]` under the
one-off key schedule of `B[bval]`. -/
def Obligations.RandomOracleBit : Prop :=
  ∀ (s : State) (xd : XReg) (bkey bval : BReg),
    decode (wordR 0x24 xd bkey bval 0 0) = .ok (.ro xd bkey bval) ∧
    Ends (.ro xd bkey bval) s
      (WroteX xd (BitVec.ofNat 64 ((aes (keyExpansion (s.getB bval)) (s.getB bkey)).toNat % 2)) s)

/-- ROM (42_prf_random_oracle.md R146): one byte 0 or 1 for each key, any overlap refused. -/
def Obligations.RandomOracleBytes : Prop :=
  ∀ (s : State) (xdst xsrc xn : XReg) (bval : BReg), s.mem.wf = true →
    decode (wordR 0x25 xdst xsrc xn bval 0) = .ok (.rom xdst xsrc xn bval) ∧
    let dst := s.natX xdst
    let src := s.natX xsrc
    let n := s.natX xn
    if s.memSize < src + 16 * n ∨ s.memSize < dst + n then Ends (.rom xdst xsrc xn bval) s (Raised 9 s)
    else if 0 < n ∧ dst < src + 16 * n ∧ src < dst + n then Ends (.rom xdst xsrc xn bval) s (Raised 2 s)
    else Ends (.rom xdst xsrc xn bval) s fun t => StoredIn dst n s t ∧
      ∀ i, i < n → t.mem.read (dst + i) =
        BitVec.ofNat 8
          ((aes (keyExpansion (s.getB bval)) (s.mem.readBlock (src + 16 * i))).toNat % 2)

/-! ## The Feistel permutation -/

/-- PKEXP (43_prp_feistel.md R160, R165): three schedules, of the encryptions of 0, 1 and 2. -/
def Obligations.ExpandPrpKeys : Prop :=
  ∀ (s : State) (pd : PReg) (ks : KReg), decode (wordR 0x30 pd ks 0 0 0) = .ok (.pkexp pd ks) ∧
    if (s.getK ks).st ≠ .initialized then Ends (.pkexp pd ks) s (Raised 3 s)
    else Ends (.pkexp pd ks) s fun t => ∃ keys : PrpKeys, WroteP pd { st := .initialized, rk := keys } s t ∧
      ∀ i : Fin 3, keys[i] = keyExpansion (aes (s.getK ks).rk (BitVec.ofNat 128 i))

/-- PRPE and PRPD (43_prp_feistel.md R167, R168, R173): the width is even and at most 64, the source
is inside the domain, and so is the result. -/
def Obligations.PrpOnOneValue : Prop :=
  ∀ (s : State) (xd : XReg) (ps : PReg) (xs xn : XReg),
    decode (wordR 0x32 xd ps xs xn 0) = .ok (.prpe xd ps xs xn) ∧
    decode (wordR 0x33 xd ps xs xn 0) = .ok (.prpd xd ps xs xn) ∧
    let n := s.natX xn
    let v := s.natX xs
    if (s.getP ps).st ≠ .initialized then
      Ends (.prpe xd ps xs xn) s (Raised 3 s) ∧ Ends (.prpd xd ps xs xn) s (Raised 3 s)
    else if n % 2 = 1 ∨ 64 < n ∨ 2 ^ n ≤ v then
      Ends (.prpe xd ps xs xn) s (Raised 2 s) ∧ Ends (.prpd xd ps xs xn) s (Raised 2 s)
    else
      Ends (.prpe xd ps xs xn) s (fun t => WroteX xd (BitVec.ofNat 64 (prpFwd (s.getP ps).rk v n)) s t ∧
        (t.getX xd).toNat = prpFwd (s.getP ps).rk v n ∧ (t.getX xd).toNat < 2 ^ n) ∧
      Ends (.prpd xd ps xs xn) s (fun t => WroteX xd (BitVec.ofNat 64 (prpInv (s.getP ps).rk v n)) s t ∧
        (t.getX xd).toNat = prpInv (s.getP ps).rk v n ∧ (t.getX xd).toNat < 2 ^ n)

/-- PRPEA and PRPDA (43_prp_feistel.md R169, R170, R171): entry `v`, two bytes big-endian, is the
image (preimage) of `v`. -/
def Obligations.PrpTables : Prop :=
  ∀ (s : State) (ps : PReg) (xdst xn : XReg), s.mem.wf = true →
    decode (wordR 0x34 ps xdst xn 0 0) = .ok (.prpea ps xdst xn) ∧
    decode (wordR 0x35 ps xdst xn 0 0) = .ok (.prpda ps xdst xn) ∧
    let n := s.natX xn
    let dst := s.natX xdst
    if (s.getP ps).st ≠ .initialized then
      Ends (.prpea ps xdst xn) s (Raised 3 s) ∧ Ends (.prpda ps xdst xn) s (Raised 3 s)
    else if n % 2 = 1 ∨ 16 < n then
      Ends (.prpea ps xdst xn) s (Raised 2 s) ∧ Ends (.prpda ps xdst xn) s (Raised 2 s)
    else if s.memSize < dst + 2 * 2 ^ n then
      Ends (.prpea ps xdst xn) s (Raised 9 s) ∧ Ends (.prpda ps xdst xn) s (Raised 9 s)
    else
      Ends (.prpea ps xdst xn) s (fun t => StoredIn dst (2 * 2 ^ n) s t ∧
        ∀ v, v < 2 ^ n → t.mem.readBE (dst + 2 * v) 2 = prpFwd (s.getP ps).rk v n) ∧
      Ends (.prpda ps xdst xn) s (fun t => StoredIn dst (2 * 2 ^ n) s t ∧
        ∀ v, v < 2 ^ n → t.mem.readBE (dst + 2 * v) 2 = prpInv (s.getP ps).rk v n)

/-! ## The counter generator -/

/-- GNEXT (44_counter_generator.md R191, R192): lazy seeding, the counter's block, the increment; after
a success the next GNEXT cannot fail and gives a different block. The list of the oracle's answers is
the model's (logs 5, 6). -/
def Obligations.NextNonce : Prop :=
  (∀ (s t : State) (b1 b2 : BReg), exec (.gnext b1) s = .next t → t.result = 0 →
    Ends (.gnext b2) t fun u => u.result = 0 ∧ u.getB b2 ≠ t.getB b1) ∧
  ∀ (s : State) (bd : BReg), decode (wordR 0x40 bd 0 0 0 0) = .ok (.gnext bd) ∧
    match generatorUsed s with
    | none => s.g.seeded = false ∧ Ends (.gnext bd) s (RaisedRandomness 1 s)
    | some g => Ends (.gnext bd) s fun t =>
        t.getB bd = aes g.rk g.ctr ∧ (∀ j, j ≠ bd → t.getB j = s.getB j) ∧
        t.g = { seeded := true, rk := g.rk, ctr := BitVec.ofNat 128 (g.ctr.toNat + 1) } ∧
        OracleAsked (generatorRequests s) s t ∧ t.result = 0 ∧
        ChangesOnly [.b, .g, .oracle, .result] s t

/-- GSEED (44_counter_generator.md R193): in any state of G, without an oracle request. -/
def Obligations.SeedGenerator : Prop :=
  ∀ (s : State) (bs : BReg), decode (wordR 0x41 bs 0 0 0 0) = .ok (.gseed bs) ∧
    Ends (.gseed bs) s fun t =>
      t.g = { seeded := true, rk := keyExpansion (s.getB bs), ctr := 0 } ∧ t.result = 0 ∧
      ChangesOnly [.g, .result] s t

/-! ## Params, keys, ciphertext descriptors -/

/-- PINITB and PINITL (45_ore_objects.md R201, R202). -/
def Obligations.InitParams : Prop :=
  ∀ (s : State) (prd : PrReg) (xn xb : XReg),
    decode (wordR 0x50 prd xn xb 0 0) = .ok (.pinitb prd xn xb) ∧
    decode (wordR 0x51 prd xn xb 0 0) = .ok (.pinitl prd xn xb) ∧
    let n := s.natX xn
    let bp := s.natX xb
    (if 2 ^ 32 ≤ n ∨ 2 ^ 32 ≤ bp ∨ bp < 2 ∨ 128 < bp then Ends (.pinitb prd xn xb) s (Raised 2 s)
      else Ends (.pinitb prd xn xb) s
        (WrotePR prd
          { init := true, scheme := .basic, nbits := BitVec.ofNat 32 n, bp := BitVec.ofNat 32 bp } s)) ∧
    (if 2 ^ 32 ≤ n ∨ 2 ^ 32 ≤ bp ∨ bp < 1 ∨ 16 < bp ∨ divUp n 8 < divUp bp 8 then
        Ends (.pinitl prd xn xb) s (Raised 2 s)
      else Ends (.pinitl prd xn xb) s
        (WrotePR prd
          { init := true, scheme := .block, nbits := BitVec.ofNat 32 n, bp := BitVec.ofNat 32 bp } s))

/-- CSIZE, CSZL and CSZR (45_ore_objects.md R203 to R206): the sizes, which always fit 64 bits. -/
def Obligations.CiphertextSizes : Prop :=
  ∀ (s : State) (xd : XReg) (prs : PrReg), ParamsBounds s →
    decode (wordR 0x52 xd prs 0 0 0) = .ok (.csize xd prs) ∧
    decode (wordR 0x53 xd prs 0 0 0) = .ok (.cszl xd prs) ∧
    decode (wordR 0x54 xd prs 0 0 0) = .ok (.cszr xd prs) ∧
    let p := s.getPR prs
    let n := p.nbits.toNat
    let bp := p.bp.toNat
    let left := divUp n bp * (16 + divUp n 8)
    let right := 16 + divUp n bp * divUp (2 ^ bp) 8
    if p.init = false then
      Ends (.csize xd prs) s (Raised 2 s) ∧ Ends (.cszl xd prs) s (Raised 2 s) ∧
        Ends (.cszr xd prs) s (Raised 2 s)
    else if p.scheme = .basic then
      divUp (n * bp) 8 < 2 ^ 64 ∧
        Ends (.csize xd prs) s (WroteX xd (BitVec.ofNat 64 (divUp (n * bp) 8)) s) ∧
        Ends (.cszl xd prs) s (Raised 2 s) ∧ Ends (.cszr xd prs) s (Raised 2 s)
    else
      left + right < 2 ^ 64 ∧
        Ends (.csize xd prs) s (WroteX xd (BitVec.ofNat 64 (left + right)) s) ∧
        Ends (.cszl xd prs) s (WroteX xd (BitVec.ofNat 64 left) s) ∧
        Ends (.cszr xd prs) s (WroteX xd (BitVec.ofNat 64 right) s)

/-- SETUP (45_ore_objects.md R210): one request for BASIC, two for BLOCK, the PRF key first.
The list of the oracle's answers is the model's (logs 5, 6). -/
def Obligations.SetUpSecretKey : Prop :=
  ∀ (s : State) (sd : SReg) (prs : PrReg), decode (wordR 0x55 sd prs 0 0 0) = .ok (.setup sd prs) ∧
    let par := s.getPR prs
    if par.init = false then Ends (.setup sd prs) s (Raised 2 s)
    else match s.nextAnswer with
      | none => Ends (.setup sd prs) s (RaisedRandomness 1 s)
      | some e1 =>
        if par.scheme = .basic then
          Ends (.setup sd prs) s fun t => OracleAsked 1 s t ∧
            WroteS [.oracle] sd
              { st := .initialized, par := par, prf := keyExpansion e1, prp := Vector.replicate 11 0 } s t
        else match s.afterDraw.nextAnswer with
          | none => Ends (.setup sd prs) s (RaisedRandomness 2 s)
          | some e2 =>
            Ends (.setup sd prs) s fun t => OracleAsked 2 s t ∧
              WroteS [.oracle] sd
                { st := .initialized, par := par, prf := keyExpansion e1, prp := keyExpansion e2 } s t

/-- SKSET (45_ore_objects.md R212): the keys come from B registers; no oracle request. -/
def Obligations.ImportSecretKey : Prop :=
  ∀ (s : State) (sd : SReg) (prs : PrReg) (bprf bprp : BReg),
    decode (wordR 0x56 sd prs bprf bprp 0) = .ok (.skset sd prs bprf bprp) ∧
    let par := s.getPR prs
    if par.init = false then Ends (.skset sd prs bprf bprp) s (Raised 2 s)
    else Ends (.skset sd prs bprf bprp) s
      (WroteS [] sd
        { st := .initialized, par := par, prf := keyExpansion (s.getB bprf)
          prp := if par.scheme = .block then keyExpansion (s.getB bprp) else Vector.replicate 11 0 } s)

/-- CINIT and CLOAD (45_ore_objects.md R216, R217): the range must fit M, no byte of which is touched. -/
def Obligations.BindCiphertext : Prop :=
  ∀ (s : State) (cd : CReg) (prs : PrReg) (xaddr : XReg),
    decode (wordR 0x58 cd prs xaddr 0 0) = .ok (.cinit cd prs xaddr) ∧
    decode (wordR 0x59 cd prs xaddr 0 0) = .ok (.cload cd prs xaddr) ∧
    let p := s.getPR prs
    if p.init = false then
      Ends (.cinit cd prs xaddr) s (Raised 2 s) ∧ Ends (.cload cd prs xaddr) s (Raised 2 s)
    else if s.memSize < s.natX xaddr + totalLen p then
      Ends (.cinit cd prs xaddr) s (Raised 7 s) ∧ Ends (.cload cd prs xaddr) s (Raised 7 s)
    else
      Ends (.cinit cd prs xaddr) s
        (WroteC [] cd { st := .initialized, par := p, base := s.getX xaddr } s) ∧
      Ends (.cload cd prs xaddr) s
        (WroteC [] cd { st := .populated, par := p, base := s.getX xaddr } s)

/-- CCLR (45_ore_objects.md R218): every byte of the range is zeroed, then the descriptor. -/
def Obligations.ClearCiphertext : Prop :=
  ∀ (s : State) (cd : CReg), s.mem.wf = true →
    decode (wordR 0x5A cd 0 0 0 0) = .ok (.cclr cd) ∧
    let c := s.getC cd
    if c.st ≠ .initialized ∧ c.st ≠ .populated then Ends (.cclr cd) s (Raised 4 s)
    else Ends (.cclr cd) s fun t =>
      WroteC [.mem] cd
        { st := .cleared, base := 0, par := { init := false, scheme := .basic, nbits := 0, bp := 0 } } s t ∧
      MemOutside c.base.toNat (totalLen c.par) s t ∧
      ∀ k, k < totalLen c.par → t.mem.read (c.base.toNat + k) = 0

/-! ## The ORE commands -/

/-- OREENC (46_basic_ore.md R242). -/
def Obligations.BasicEncryptCommand : Prop :=
  ∀ (s : State) (cd : CReg) (ss : SReg) (xmsg : XReg), s.mem.wf = true →
    decode (wordR 0x60 cd ss xmsg 0 0) = .ok (.oreenc cd ss xmsg) ∧
    let c := s.getC cd
    let par := c.par
    let n := divUp (par.nbits.toNat * par.bp.toNat) 8
    if (s.getS ss).st ≠ .initialized then Ends (.oreenc cd ss xmsg) s (Raised 3 s)
    else if c.st ≠ .initialized ∧ c.st ≠ .populated then Ends (.oreenc cd ss xmsg) s (Raised 4 s)
    else if (s.getS ss).par ≠ par then Ends (.oreenc cd ss xmsg) s (Raised 5 s)
    else if par.scheme ≠ .basic then Ends (.oreenc cd ss xmsg) s (Raised 2 s)
    else if 64 < par.nbits.toNat then Ends (.oreenc cd ss xmsg) s (Raised 6 s)
    else Ends (.oreenc cd ss xmsg) s fun t =>
      WroteC [.mem] cd { c with st := .populated } s t ∧ MemOutside c.base.toNat n s t ∧
      t.mem.bytes c.base.toNat n =
        basicEncrypt (s.getS ss).prf par.nbits.toNat par.bp.toNat (s.natX xmsg)

/-- ORECMP (46_basic_ore.md R244): no key and no memory byte changes; a ciphertext equals itself. -/
def Obligations.BasicCompareCommand : Prop :=
  ∀ (s : State) (xd : XReg) (ca cb : CReg),
    decode (wordR 0x61 xd ca cb 0 0) = .ok (.orecmp xd ca cb) ∧
    let a := s.getC ca
    let b := s.getC cb
    let n := divUp (a.par.nbits.toNat * a.par.bp.toNat) 8
    let r := basicCompare a.par.nbits.toNat a.par.bp.toNat (s.mem.bytes a.base.toNat n)
      (s.mem.bytes b.base.toNat n)
    if a.st ≠ .populated ∨ b.st ≠ .populated then Ends (.orecmp xd ca cb) s (Raised 4 s)
    else if a.par ≠ b.par then Ends (.orecmp xd ca cb) s (Raised 5 s)
    else if a.par.scheme ≠ .basic then Ends (.orecmp xd ca cb) s (Raised 2 s)
    else (r = -1 ∨ r = 0 ∨ r = 1) ∧ (ca = cb → r = 0) ∧
      Ends (.orecmp xd ca cb) s
        (WroteX xd (if r = -1 then 0xFFFFFFFFFFFFFFFF else if r = 0 then 0 else 1) s)

/-- OBENC (47_block_ore.md R262): the checks and the nonce draw precede the first write.
The list of the oracle's answers is the model's (logs 5, 6). -/
def Obligations.BlockEncryptCommand : Prop :=
  ∀ (s : State) (cd : CReg) (ss : SReg) (xmsg : XReg), s.mem.wf = true → ParamsBounds s →
    decode (wordR 0x70 cd ss xmsg 0 0) = .ok (.obenc cd ss xmsg) ∧
    let c := s.getC cd
    let par := c.par
    let n := par.nbits.toNat
    let bl := par.bp.toNat
    if (s.getS ss).st ≠ .initialized then Ends (.obenc cd ss xmsg) s (Raised 3 s)
    else if c.st ≠ .initialized ∧ c.st ≠ .populated then Ends (.obenc cd ss xmsg) s (Raised 4 s)
    else if (s.getS ss).par ≠ par then Ends (.obenc cd ss xmsg) s (Raised 5 s)
    else if par.scheme ≠ .block ∨ bl % 2 = 1 then Ends (.obenc cd ss xmsg) s (Raised 2 s)
    else if 64 < n then Ends (.obenc cd ss xmsg) s (Raised 6 s)
    else match generatorUsed s with
      | none => s.g.seeded = false ∧ Ends (.obenc cd ss xmsg) s (RaisedRandomness 1 s)
      | some g =>
        let lr := blockEncrypt (s.getS ss).prf (s.getS ss).prp n bl (s.natX xmsg) (aes g.rk g.ctr)
        Ends (.obenc cd ss xmsg) s fun t =>
          WroteC [.mem, .g, .oracle] cd { c with st := .populated } s t ∧
          t.g = { seeded := true, rk := g.rk, ctr := BitVec.ofNat 128 (g.ctr.toNat + 1) } ∧
          OracleAsked (generatorRequests s) s t ∧
          t.mem.bytes c.base.toNat (leftLen n bl) = lr.1 ∧
          t.mem.bytes (c.base.toNat + leftLen n bl) (rightLen n bl) = lr.2 ∧
          MemOutside c.base.toNat (leftLen n bl + rightLen n bl) s t

/-- OBCMP (47_block_ore.md R264): no key and no memory byte changes; a ciphertext equals itself. -/
def Obligations.BlockCompareCommand : Prop :=
  ∀ (s : State) (xd : XReg) (ca cb : CReg),
    decode (wordR 0x71 xd ca cb 0 0) = .ok (.obcmp xd ca cb) ∧
    let a := s.getC ca
    let b := s.getC cb
    let n := a.par.nbits.toNat
    let bl := a.par.bp.toNat
    let r := blockCompare n bl (s.mem.bytes a.base.toNat (leftLen n bl))
      (s.mem.bytes b.base.toNat (leftLen n bl))
      (s.mem.bytes (b.base.toNat + leftLen n bl) (rightLen n bl))
    if a.st ≠ .populated ∨ b.st ≠ .populated then Ends (.obcmp xd ca cb) s (Raised 4 s)
    else if a.par ≠ b.par then Ends (.obcmp xd ca cb) s (Raised 5 s)
    else if a.par.scheme ≠ .block then Ends (.obcmp xd ca cb) s (Raised 2 s)
    else (ca = cb → r = some 0) ∧ match r with
      | none => Ends (.obcmp xd ca cb) s (Raised 2 s)
      | some q => (q = -1 ∨ q = 0 ∨ q = 1) ∧
          Ends (.obcmp xd ca cb) s
            (WroteX xd (if q = -1 then 0xFFFFFFFFFFFFFFFF else if q = 0 then 0 else 1) s)

/-! ## Rules about all commands -/

/-- A command that returns a code other than OK changes RESULT alone (60_exceptions.md R293), but for the
oracle's list of answers and count of requests under code 1: that a failed request uses its answer up
is the model's reading (log 6). -/
def Obligations.ErrorsHaveNoSideEffect : Prop :=
  ∀ (i : Instr) (s t : State), exec i s = .next t → t.result ≠ 0 →
    t = { s with result := t.result, entropy := t.entropy, draws := t.draws } ∧
    (t.result ≠ 1 → t.entropy = s.entropy ∧ t.draws = s.draws)

/-- Every command returns only the codes of its row (60_exceptions.md R292). -/
def Obligations.ResultCodesOfEachCommand : Prop :=
  ∀ (i : Instr) (s t : State), exec i s = .next t → t.result ∈ resultCodes i

/-- Every command writes only the state it is listed for; a descriptor's Params and base are written
by CINIT, CLOAD and CCLR alone, so OREENC and OBENC change its lifecycle only (10_state.md R45). -/
def Obligations.CommandsWriteOnlyTheirState : Prop :=
  ∀ (i : Instr) (s t : State), exec i s = .next t →
    ChangesOnly (writableParts i) s t ∧
    ((∀ cd prs xaddr, i ≠ .cinit cd prs xaddr ∧ i ≠ .cload cd prs xaddr ∧ i ≠ .cclr cd) →
      ∀ j, (t.getC j).par = (s.getC j).par ∧ (t.getC j).base = (s.getC j).base)

/-- LI64 and LB128 assemble to four and nine commands that load the constant (30_encoding.md R84,
R85). The model's assembler never drops a leading command, and takes different scratch registers
to be the caller's duty (log 19). -/
def Obligations.PseudoInstructionsLoadConstants : Prop :=
  (∀ (s : State) (xd : XReg) (v : XWord),
    let line : AsmLine := { mnemonic := .LI64, operands := [.reg .x xd, .imm v.toNat] }
    let cmds : List Instr := [.li xd (v.extractLsb' 48 16), .lih xd (v.extractLsb' 32 16),
      .lih xd (v.extractLsb' 16 16), .lih xd (v.extractLsb' 0 16)]
    assemble line = .ok (cmds.map encode) ∧
      ∃ t, runCommands cmds s = some t ∧ WroteX xd v s t) ∧
  (∀ (s : State) (bd : BReg) (xt xu : XReg) (v : Block), xt ≠ xu →
    let line : AsmLine :=
      { mnemonic := .LB128, operands := [.reg .b bd, .reg .x xt, .reg .x xu, .imm v.toNat] }
    ∃ cmds t, assemble line = .ok (cmds.map encode) ∧ cmds.length = 9 ∧ runCommands cmds s = some t ∧
      t.getB bd = v ∧ (∀ j, j ≠ bd → t.getB j = s.getB j) ∧ t.getX xt = v.extractLsb' 64 64 ∧
      t.getX xu = v.extractLsb' 0 64 ∧ (∀ j, j ≠ xt → j ≠ xu → t.getX j = s.getX j) ∧
      ChangesOnly [.x, .b, .result] s t)

/-! ## Invariants that every step keeps -/

/-- Entries that are not in use hold zero (10_state.md R27). -/
def Obligations.ZeroisationIsKept : Prop :=
  ∀ s t : State, Zeroised s → step s = .next t → Zeroised t

/-- Initialised Params stay within their bounds, in PR, S and C (10_state.md R32, R33). -/
def Obligations.ParamsStayInBounds : Prop :=
  ∀ s t : State, ParamsBounds s → step s = .next t → ParamsBounds t

/-- MEM_SIZE stays at least 16, memory keeps its canonical form inside M, and every hosted ciphertext lies inside M
(00_scope.md R9, 45_ore_objects.md R216, R218; 20_memory.md R52). -/
def Obligations.BuffersStayInBounds : Prop :=
  ∀ s t : State, ParamsBounds s → BuffersInBounds s → step s = .next t → BuffersInBounds t

/-- Key material in use is always a key schedule (10_state.md R30, R31, R33, R35). -/
def Obligations.KeysStaySchedules : Prop :=
  ∀ s t : State, KeysAreSchedules s → step s = .next t → KeysAreSchedules t

/-- The machine after power-on, with every canonical memory inside M (70_reset_and_hazards.md R321) and
every size of at least 16 (00_scope.md R9), meets the four invariants, and RESULT holds a code. So does
`State.reset`, whose empty memory list and default size are the model's choice (logs 1, 2). -/
def Obligations.ResetMeetsTheInvariants : Prop :=
  let meets (t : State) : Prop :=
    Zeroised t ∧ ParamsBounds t ∧ BuffersInBounds t ∧ KeysAreSchedules t ∧ ResultLegal t
  (∀ (m : Memory) (size : Config.MemSize), m.wf = true → (∀ cell ∈ m.cells, cell.1 < size.val) →
    meets (State.powerOn m size)) ∧
  meets State.reset
end

