-- ==== Sys2Proof/Laws/Memory.lean ====
section
/-! SUPPORT. The laws of the buffer memory: a read after a write, everything else unchanged, and the
canonical form kept by every memory operation. -/

namespace Sys2Proof.Machine

/-! ### Reading -/

theorem readCells_of_low {low : Nat} {cells : List Host.Cell} (h : cellsOrdered low cells = true)
    {a : Nat} (ha : a < low) : readCells cells a = unlistedByte := by
  induction cells generalizing low with
  | nil => rfl
  | cons cell rest ih =>
    obtain ⟨c, v⟩ := cell
    simp only [cellsOrdered, Bool.and_eq_true, decide_eq_true_eq] at h
    simp only [readCells]
    rw [if_neg (by omega)]
    exact ih h.2 (by omega)

theorem readCells_writeCells {low : Nat} {cells : List Host.Cell} (h : cellsOrdered low cells = true)
    (a : Nat) (v : Byte) (c : Nat) :
    readCells (writeCells cells a v) c = if c = a then v else readCells cells c := by
  induction cells generalizing low with
  | nil =>
    by_cases hv : v = unlistedByte <;> by_cases hc : c = a <;> simp [writeCells, readCells, hc, hv]
  | cons cell rest ih =>
    obtain ⟨e, u⟩ := cell
    simp only [cellsOrdered, Bool.and_eq_true, decide_eq_true_eq] at h
    have hrest : ∀ x, x < e + 1 → readCells rest x = unlistedByte :=
      fun x hx => readCells_of_low h.2 hx
    by_cases hc : c = a
    · subst hc
      rw [if_pos rfl]
      simp only [writeCells]
      split_ifs with h1 h2 h3 h4 <;> try simp only [readCells]
      · rw [if_neg (by omega), hrest c (by omega), h2]
      · simp
      · rw [hrest c (by omega), h4]
      · simp
      · rw [if_neg h3, ih h.2, if_pos rfl]
    · rw [if_neg hc]
      simp only [writeCells]
      split_ifs with h1 h2 h3 h4 <;> try simp only [readCells]
      · rw [if_neg hc]
      · rw [if_neg (by omega)]
      · rw [if_neg hc, if_neg (by omega)]
      · rw [ih h.2, if_neg hc]

/-- The value written is what is read back, and every other byte reads as before. -/
theorem Memory.read_write {m : Memory} (h : m.wf = true) (a : Nat) (v : Byte) (c : Nat) :
    (m.write a v).read c = if c = a then v else m.read c :=
  readCells_writeCells h a v c

/-! The two laws that need no premise: a byte written reads back, and other bytes are unchanged, in
any memory, canonical or not. -/

theorem readCells_writeCells_ne (cells : List Host.Cell) {a c : Nat} (v : Byte) (hc : c ≠ a) :
    readCells (writeCells cells a v) c = readCells cells c := by
  induction cells with
  | nil =>
    simp only [writeCells]
    split <;> simp [readCells, hc]
  | cons cell rest ih =>
    obtain ⟨e, u⟩ := cell
    simp only [writeCells]
    split_ifs with h1 h2 h3 h4 <;> try simp only [readCells]
    · rw [if_neg hc]
    · rw [if_neg (by omega)]
    · rw [if_neg hc, if_neg (by omega)]
    · rw [ih]

/-- A write leaves every other byte alone. -/
theorem Memory.read_write_ne (m : Memory) {a c : Nat} (v : Byte) (hc : c ≠ a) :
    (m.write a v).read c = m.read c :=
  readCells_writeCells_ne m.cells v hc

/-! ### The canonical form -/

theorem cellsOrdered_mono {low low' : Nat} {cells : List Host.Cell}
    (h : cellsOrdered low cells = true) (hl : low' ≤ low) : cellsOrdered low' cells = true := by
  cases cells with
  | nil => rfl
  | cons cell rest =>
    obtain ⟨c, v⟩ := cell
    simp only [cellsOrdered, Bool.and_eq_true, decide_eq_true_eq] at h ⊢
    exact ⟨⟨by omega, h.1.2⟩, h.2⟩

theorem cellsOrdered_writeCells {low : Nat} {cells : List Host.Cell}
    (h : cellsOrdered low cells = true) {a : Nat} (v : Byte) (ha : low ≤ a) :
    cellsOrdered low (writeCells cells a v) = true := by
  induction cells generalizing low with
  | nil =>
    simp only [writeCells]
    split <;> simp_all [cellsOrdered]
  | cons cell rest ih =>
    obtain ⟨e, u⟩ := cell
    have h' := h
    simp only [cellsOrdered, Bool.and_eq_true, decide_eq_true_eq] at h'
    simp only [writeCells]
    split_ifs with h1 h2 h3 h4
    · exact h
    · simp only [cellsOrdered, Bool.and_eq_true, decide_eq_true_eq]
      exact ⟨⟨ha, h2⟩, ⟨by omega, h'.1.2⟩, h'.2⟩
    · exact cellsOrdered_mono h'.2 (by omega)
    · simp only [cellsOrdered, Bool.and_eq_true, decide_eq_true_eq]
      exact ⟨⟨ha, h4⟩, h3 ▸ h'.2⟩
    · simp only [cellsOrdered, Bool.and_eq_true, decide_eq_true_eq]
      exact ⟨h'.1, ih h'.2 (by omega)⟩

/-- A write keeps the canonical form. -/
theorem Memory.wf_write {m : Memory} (h : m.wf = true) (a : Nat) (v : Byte) : (m.write a v).wf = true :=
  cellsOrdered_writeCells h v (Nat.zero_le a)

theorem Memory.wf_writeBytes {m : Memory} (h : m.wf = true) (a : Nat) (bytes : List Byte) :
    (m.writeBytes a bytes).wf = true := by
  induction bytes generalizing m a with
  | nil => exact h
  | cons v rest ih => exact ih (wf_write h a v) (a + 1)

theorem Memory.wf_writeBE {m : Memory} (h : m.wf = true) (a n v : Nat) : (m.writeBE a n v).wf = true :=
  wf_writeBytes h a _

theorem Memory.wf_writeBlock {m : Memory} (h : m.wf = true) (a : Nat) (v : Block) :
    (m.writeBlock a v).wf = true :=
  wf_writeBE h a 16 _

/-- A loop keeps what each of its steps keeps. -/
theorem forUpTo_keeps {P : Memory → Prop} {f : Nat → Memory → Memory} {n : Nat}
    (hf : ∀ i m, i < n → P m → P (f i m)) {m : Memory} (h : P m) : P (forUpTo n f m) := by
  have : ∀ (l : List Nat) (m : Memory), (∀ i ∈ l, i < n) → P m →
      P (l.foldl (fun acc i => f i acc) m) := by
    intro l
    induction l with
    | nil => intro m _ hm; exact hm
    | cons i rest ih =>
      intro m hl hm
      exact ih _ (fun j hj => hl j (List.mem_cons_of_mem _ hj)) (hf i m (hl i (by simp)) hm)
  exact this _ m (fun i hi => List.mem_range.mp hi) h

/-- One more turn of a loop. -/
theorem forUpTo_succ (n : Nat) (f : Nat → Memory → Memory) (m : Memory) :
    forUpTo (n + 1) f m = f n (forUpTo n f m) := by
  simp [forUpTo, List.range_succ]

@[simp] theorem forUpTo_zero (f : Nat → Memory → Memory) (m : Memory) : forUpTo 0 f m = m := rfl

theorem encryptBlocks_wf {m : Memory} (h : m.wf = true) (rk : ExpandedKey) (dst src n : Nat) :
    (encryptBlocks rk dst src n m).wf = true :=
  forUpTo_keeps (P := fun m => m.wf = true) (fun _ _ _ hm => Memory.wf_writeBlock hm _ _) h

theorem oracleBytes_wf {m : Memory} (h : m.wf = true) (rk : ExpandedKey) (dst src n : Nat) :
    (oracleBytes rk dst src n m).wf = true :=
  forUpTo_keeps (P := fun m => m.wf = true) (fun _ _ _ hm => Memory.wf_write hm _ _) h

theorem writeTable_wf {m : Memory} (h : m.wf = true) (f : Nat → Nat) (dst n : Nat) :
    (writeTable f dst n m).wf = true :=
  forUpTo_keeps (P := fun m => m.wf = true) (fun _ _ _ hm => Memory.wf_writeBE hm _ _ _) h

/-! ### Byte strings -/

@[simp] theorem toBE_length (v n : Nat) : (toBE v n).length = n := by simp [toBE]

@[simp] theorem Memory.bytes_length (m : Memory) (a n : Nat) : (m.bytes a n).length = n := by
  simp [Memory.bytes]

theorem Memory.read_writeBytes_outside (m : Memory) {a c : Nat} (bytes : List Byte)
    (hc : c < a ∨ a + bytes.length ≤ c) : (m.writeBytes a bytes).read c = m.read c := by
  induction bytes generalizing m a with
  | nil => rfl
  | cons v rest ih =>
    simp only [List.length_cons] at hc
    rw [Memory.writeBytes, ih _ (by omega), read_write_ne m v (by omega)]

/-- Byte `k` of a byte string stored at `a` is read at `a + k`. -/
theorem Memory.read_writeBytes_inside {m : Memory} (h : m.wf = true) (a : Nat) (bytes : List Byte)
    (k : Nat) (hk : k < bytes.length) : (m.writeBytes a bytes).read (a + k) = bytes[k] := by
  induction bytes generalizing m a k with
  | nil => simp at hk
  | cons v rest ih =>
    cases k with
    | zero =>
      rw [Memory.writeBytes, read_writeBytes_outside _ _ (Or.inl (by omega)), read_write h]
      simp
    | succ k =>
      have := ih (wf_write h a v) (a + 1) k (by simpa using hk)
      rw [Memory.writeBytes, show a + (k + 1) = a + 1 + k by omega, this]
      simp

end Sys2Proof.Machine
end

