-- ==== Sys2Proof/Laws/Bytes.lean ====
section
/-! SUPPORT. Byte strings and the numbers they stand for, and blocks read from and written to the
buffer memory. -/

namespace Sys2Proof.Machine

theorem be_foldl (l : List Byte) (acc : Nat) :
    l.foldl (fun acc c => acc * 256 + c.toNat) acc = acc * 256 ^ l.length + be l := by
  induction l generalizing acc with
  | nil => simp [be]
  | cons c rest ih =>
    simp only [List.foldl_cons, be, List.length_cons]
    rw [ih, ih (0 * 256 + c.toNat)]
    ring

theorem be_cons (c : Byte) (l : List Byte) : be (c :: l) = c.toNat * 256 ^ l.length + be l := by
  simp only [be, List.foldl_cons]
  rw [be_foldl]
  simp [be]

theorem be_append (l r : List Byte) : be (l ++ r) = be l * 256 ^ r.length + be r := by
  simp only [be, List.foldl_append]
  rw [be_foldl]
  rfl

theorem toBE_succ (v n : Nat) : toBE v (n + 1) = BitVec.ofNat 8 (v / 256 ^ n) :: toBE v n := by
  simp only [toBE, List.range_succ_eq_map, List.map_cons, List.map_map]
  congr 1
  apply List.map_congr_left
  intro k hk
  simp
  congr 3
  omega

/-- Reading `n` bytes gives this string when every byte reads as the string's. -/
theorem Memory.bytes_eq {m : Memory} {a n : Nat} {l : List Byte} (hl : l.length = n)
    (h : ∀ k (hk : k < l.length), m.read (a + k) = l[k]) : m.bytes a n = l := by
  apply List.ext_getElem
  · simp [hl]
  · intro k h1 h2
    simp only [Memory.bytes, List.getElem_map, List.getElem_range]
    exact h k h2

/-- A stored byte string reads back. -/
theorem Memory.bytes_writeBytes {m : Memory} (h : m.wf = true) (a : Nat) (l : List Byte) :
    (m.writeBytes a l).bytes a l.length = l :=
  bytes_eq rfl fun k hk => read_writeBytes_inside h a l k hk

theorem Memory.readBlock_congr {m m' : Memory} {a : Nat}
    (h : ∀ k, k < 16 → m.read (a + k) = m'.read (a + k)) : m.readBlock a = m'.readBlock a := by
  simp only [Memory.readBlock, Memory.readBE, Memory.bytes]
  congr 2
  apply List.map_congr_left
  intro k hk
  exact h k (List.mem_range.mp hk)

theorem Memory.readBE_congr {m m' : Memory} {a n : Nat}
    (h : ∀ k, k < n → m.read (a + k) = m'.read (a + k)) : m.readBE a n = m'.readBE a n := by
  simp only [Memory.readBE, Memory.bytes]
  congr 1
  apply List.map_congr_left
  intro k hk
  exact h k (List.mem_range.mp hk)

theorem Memory.read_writeBlock_outside (m : Memory) {a c : Nat} (v : Block)
    (h : c < a ∨ a + 16 ≤ c) : (m.writeBlock a v).read c = m.read c := by
  apply read_writeBytes_outside
  simpa using h

end Sys2Proof.Machine
end

