-- ==== Sys2Proof/Laws/Decode.lean ====
section
/-! SUPPORT. Command words as numbers: the value of an encoded word, and the fields read back out of
one. -/

namespace Sys2Proof

theorem toNat_append_add {n m : Nat} (x : BitVec n) (y : BitVec m) :
    (x ++ y).toNat = x.toNat * 2 ^ m + y.toNat := by
  rw [BitVec.toNat_append, ← Nat.shiftLeft_add_eq_or_of_lt y.isLt, Nat.shiftLeft_eq]

theorem toNat_packR (op : BitVec 8) (a b c d e : Fin 16) :
    (packR op a b c d e).toNat =
      op.toNat * 2 ^ 24 + a * 2 ^ 20 + b * 2 ^ 16 + c * 2 ^ 12 + d * 2 ^ 8 + e * 2 ^ 4 := by
  have := op.isLt; have := a.isLt; have := b.isLt; have := c.isLt; have := d.isLt; have := e.isLt
  simp only [packR, toNat_append_add, BitVec.toNat_ofNat]
  omega

theorem toNat_packI (op : BitVec 8) (a : Fin 16) (imm : BitVec 16) :
    (packI op a imm).toNat = op.toNat * 2 ^ 24 + a * 2 ^ 20 + imm.toNat := by
  have := op.isLt; have := a.isLt
  simp only [packI, toNat_append_add, BitVec.toNat_ofNat]
  omega

/-- The word of an R-format command is the sum of its shifted fields. -/
theorem packR_eq_wordR (op : Nat) (a b c d e : Fin 16) :
    packR (BitVec.ofNat 8 op) a b c d e = Machine.wordR op a b c d e := by
  apply BitVec.eq_of_toNat_eq
  have := a.isLt; have := b.isLt; have := c.isLt; have := d.isLt; have := e.isLt
  rw [toNat_packR, Machine.wordR, BitVec.toNat_ofNat, BitVec.toNat_ofNat]
  omega

theorem packI_eq_wordI (op : Nat) (a : Fin 16) (imm : BitVec 16) :
    packI (BitVec.ofNat 8 op) a imm = Machine.wordI op a imm := by
  apply BitVec.eq_of_toNat_eq
  have := a.isLt; have := imm.isLt
  rw [toNat_packI, Machine.wordI, BitVec.toNat_ofNat, BitVec.toNat_ofNat]
  omega

section Fields

variable (op : BitVec 8) (a b c d e : Fin 16) (imm : BitVec 16)

@[simp] theorem fieldOp_packR : fieldOp (packR op a b c d e) = op := by
  apply BitVec.eq_of_toNat_eq
  have := op.isLt; have := a.isLt; have := b.isLt; have := c.isLt; have := d.isLt; have := e.isLt
  simp only [fieldOp, BitVec.extractLsb'_toNat, toNat_packR, Nat.shiftRight_eq_div_pow]
  omega

@[simp] theorem fieldA_packR : fieldA (packR op a b c d e) = a := by
  apply Fin.ext
  have := op.isLt; have := a.isLt; have := b.isLt; have := c.isLt; have := d.isLt; have := e.isLt
  simp only [fieldA, fieldIndex, BitVec.extractLsb'_toNat, toNat_packR, Nat.shiftRight_eq_div_pow]
  omega

@[simp] theorem fieldB_packR : fieldB (packR op a b c d e) = b := by
  apply Fin.ext
  have := op.isLt; have := a.isLt; have := b.isLt; have := c.isLt; have := d.isLt; have := e.isLt
  simp only [fieldB, fieldIndex, BitVec.extractLsb'_toNat, toNat_packR, Nat.shiftRight_eq_div_pow]
  omega

@[simp] theorem fieldC_packR : fieldC (packR op a b c d e) = c := by
  apply Fin.ext
  have := op.isLt; have := a.isLt; have := b.isLt; have := c.isLt; have := d.isLt; have := e.isLt
  simp only [fieldC, fieldIndex, BitVec.extractLsb'_toNat, toNat_packR, Nat.shiftRight_eq_div_pow]
  omega

@[simp] theorem fieldD_packR : fieldD (packR op a b c d e) = d := by
  apply Fin.ext
  have := op.isLt; have := a.isLt; have := b.isLt; have := c.isLt; have := d.isLt; have := e.isLt
  simp only [fieldD, fieldIndex, BitVec.extractLsb'_toNat, toNat_packR, Nat.shiftRight_eq_div_pow]
  omega

@[simp] theorem fieldE_packR : fieldE (packR op a b c d e) = e := by
  apply Fin.ext
  have := op.isLt; have := a.isLt; have := b.isLt; have := c.isLt; have := d.isLt; have := e.isLt
  simp only [fieldE, fieldIndex, BitVec.extractLsb'_toNat, toNat_packR, Nat.shiftRight_eq_div_pow]
  omega

@[simp] theorem fieldOp_packI : fieldOp (packI op a imm) = op := by
  apply BitVec.eq_of_toNat_eq
  have := op.isLt; have := a.isLt; have := imm.isLt
  simp only [fieldOp, BitVec.extractLsb'_toNat, toNat_packI, Nat.shiftRight_eq_div_pow]
  omega

@[simp] theorem fieldA_packI : fieldA (packI op a imm) = a := by
  apply Fin.ext
  have := op.isLt; have := a.isLt; have := imm.isLt
  simp only [fieldA, fieldIndex, BitVec.extractLsb'_toNat, toNat_packI, Nat.shiftRight_eq_div_pow]
  omega

@[simp] theorem fieldImm_packI : fieldImm (packI op a imm) = imm := by
  apply BitVec.eq_of_toNat_eq
  have := op.isLt; have := a.isLt; have := imm.isLt
  simp only [fieldImm, BitVec.extractLsb'_toNat, toNat_packI, Nat.shiftRight_eq_div_pow]
  omega

end Fields

/-! ### Masks -/

theorem and_fields (op : BitVec 8) (a b c d e f ma mb mc md me mf : BitVec 4) :
    (op ++ a ++ b ++ c ++ d ++ e ++ f) &&& (0xFF#8 ++ ma ++ mb ++ mc ++ md ++ me ++ mf) =
      op ++ (a &&& ma) ++ (b &&& mb) ++ (c &&& mc) ++ (d &&& md) ++ (e &&& me) ++ (f &&& mf) := by
  have h : op &&& 0xFF#8 = op := BitVec.and_allOnes
  simp only [BitVec.and_append, h]

theorem and_fieldsI (op : BitVec 8) (a b ma mb : BitVec 4) (c mc : BitVec 16) :
    (op ++ a ++ b ++ c) &&& (0xFF#8 ++ ma ++ mb ++ mc) =
      op ++ (a &&& ma) ++ (b &&& mb) ++ (c &&& mc) := by
  have h : op &&& 0xFF#8 = op := BitVec.and_allOnes
  simp only [BitVec.and_append, h]

theorem packR_mask (op : BitVec 8) (a b c d e : Fin 16) (ma mb mc md me : BitVec 4) :
    packR op a b c d e &&& (0xFF#8 ++ ma ++ mb ++ mc ++ md ++ me ++ 15#4) =
      op ++ (BitVec.ofNat 4 a &&& ma) ++ (BitVec.ofNat 4 b &&& mb) ++ (BitVec.ofNat 4 c &&& mc) ++
        (BitVec.ofNat 4 d &&& md) ++ (BitVec.ofNat 4 e &&& me) ++ 0#4 :=
  and_fields op _ _ _ _ _ 0#4 _ _ _ _ _ _

theorem packI_mask (op : BitVec 8) (a : Fin 16) (imm : BitVec 16) :
    packI op a imm &&& (0xFF#8 ++ 0#4 ++ 15#4 ++ 0#16) = op ++ 0#4 ++ 0#4 ++ 0#16 := by
  have := and_fieldsI op (BitVec.ofNat 4 a) 0#4 0#4 15#4 imm 0#16
  simp only [BitVec.and_zero, BitVec.zero_and] at this
  exact this

theorem formatMatch_eq (op : BitVec 8) : formatMatch op = op ++ 0#24 := by
  apply BitVec.eq_of_toNat_eq
  have := op.isLt
  have e : (op ++ 0#24).toNat = op.toNat * 2 ^ 24 + 0 := toNat_append_add op 0#24
  rw [e, formatMatch]
  simp [Nat.shiftLeft_eq]
  omega

theorem formatMask_z : formatMask .z = 0xFF#8 ++ 15#4 ++ 15#4 ++ 15#4 ++ 15#4 ++ 15#4 ++ 15#4 := by decide

theorem formatMask_r1 : formatMask .r1 = 0xFF#8 ++ 0#4 ++ 15#4 ++ 15#4 ++ 15#4 ++ 15#4 ++ 15#4 := by decide

theorem formatMask_r2 : formatMask .r2 = 0xFF#8 ++ 0#4 ++ 0#4 ++ 15#4 ++ 15#4 ++ 15#4 ++ 15#4 := by decide

theorem formatMask_r3 : formatMask .r3 = 0xFF#8 ++ 0#4 ++ 0#4 ++ 0#4 ++ 15#4 ++ 15#4 ++ 15#4 := by decide

theorem formatMask_r4 : formatMask .r4 = 0xFF#8 ++ 0#4 ++ 0#4 ++ 0#4 ++ 0#4 ++ 15#4 ++ 15#4 := by decide

theorem formatMask_r5 : formatMask .r5 = 0xFF#8 ++ 0#4 ++ 0#4 ++ 0#4 ++ 0#4 ++ 0#4 ++ 15#4 := by decide

theorem formatMask_i : formatMask .i = 0xFF#8 ++ 0#4 ++ 15#4 ++ 0#16 := by decide

/-- The decoder reads back what the encoder writes. -/
theorem decode_encode (i : Instr) : decode (encode i) = .ok i := by
  cases i <;> simp only [encode, decode, fieldOp_packR, fieldOp_packI, BitVec.reduceToNat, opcodeRow,
    formatMatch_eq, formatMask_z, formatMask_r1, formatMask_r2, formatMask_r3, formatMask_r4,
    formatMask_r5, formatMask_i, packR_mask, packI_mask] <;>
    rw [if_pos] <;> simp

end Sys2Proof
end

