-- ==== Sys2Proof/Laws/State.lean ====
section
/-! SUPPORT. What each update of a state leaves in each field: true by rfl, so that no proof unfolds
a record update. -/

namespace Sys2Proof.Machine

variable (s : State)

/-! ### setX -/

@[simp] theorem State.setX_x (i : XReg) (v : XWord) : (s.setX i v).x = s.x.set i v := rfl
@[simp] theorem State.setX_b (i : XReg) (v : XWord) : (s.setX i v).b = s.b := rfl
@[simp] theorem State.setX_k (i : XReg) (v : XWord) : (s.setX i v).k = s.k := rfl
@[simp] theorem State.setX_p (i : XReg) (v : XWord) : (s.setX i v).p = s.p := rfl
@[simp] theorem State.setX_pr (i : XReg) (v : XWord) : (s.setX i v).pr = s.pr := rfl
@[simp] theorem State.setX_sk (i : XReg) (v : XWord) : (s.setX i v).sk = s.sk := rfl
@[simp] theorem State.setX_ct (i : XReg) (v : XWord) : (s.setX i v).ct = s.ct := rfl
@[simp] theorem State.setX_g (i : XReg) (v : XWord) : (s.setX i v).g = s.g := rfl
@[simp] theorem State.setX_result (i : XReg) (v : XWord) : (s.setX i v).result = s.result := rfl
@[simp] theorem State.setX_mem (i : XReg) (v : XWord) : (s.setX i v).mem = s.mem := rfl
@[simp] theorem State.setX_memSize (i : XReg) (v : XWord) : (s.setX i v).memSize = s.memSize := rfl
@[simp] theorem State.setX_inbox (i : XReg) (v : XWord) : (s.setX i v).inbox = s.inbox := rfl
@[simp] theorem State.setX_replies (i : XReg) (v : XWord) : (s.setX i v).replies = s.replies := rfl
@[simp] theorem State.setX_entropy (i : XReg) (v : XWord) : (s.setX i v).entropy = s.entropy := rfl
@[simp] theorem State.setX_draws (i : XReg) (v : XWord) : (s.setX i v).draws = s.draws := rfl

/-! ### setB -/

@[simp] theorem State.setB_x (i : BReg) (v : Block) : (s.setB i v).x = s.x := rfl
@[simp] theorem State.setB_b (i : BReg) (v : Block) : (s.setB i v).b = s.b.set i v := rfl
@[simp] theorem State.setB_k (i : BReg) (v : Block) : (s.setB i v).k = s.k := rfl
@[simp] theorem State.setB_p (i : BReg) (v : Block) : (s.setB i v).p = s.p := rfl
@[simp] theorem State.setB_pr (i : BReg) (v : Block) : (s.setB i v).pr = s.pr := rfl
@[simp] theorem State.setB_sk (i : BReg) (v : Block) : (s.setB i v).sk = s.sk := rfl
@[simp] theorem State.setB_ct (i : BReg) (v : Block) : (s.setB i v).ct = s.ct := rfl
@[simp] theorem State.setB_g (i : BReg) (v : Block) : (s.setB i v).g = s.g := rfl
@[simp] theorem State.setB_result (i : BReg) (v : Block) : (s.setB i v).result = s.result := rfl
@[simp] theorem State.setB_mem (i : BReg) (v : Block) : (s.setB i v).mem = s.mem := rfl
@[simp] theorem State.setB_memSize (i : BReg) (v : Block) : (s.setB i v).memSize = s.memSize := rfl
@[simp] theorem State.setB_inbox (i : BReg) (v : Block) : (s.setB i v).inbox = s.inbox := rfl
@[simp] theorem State.setB_replies (i : BReg) (v : Block) : (s.setB i v).replies = s.replies := rfl
@[simp] theorem State.setB_entropy (i : BReg) (v : Block) : (s.setB i v).entropy = s.entropy := rfl
@[simp] theorem State.setB_draws (i : BReg) (v : Block) : (s.setB i v).draws = s.draws := rfl

/-! ### setK -/

@[simp] theorem State.setK_x (i : KReg) (v : KeyEntry) : (s.setK i v).x = s.x := rfl
@[simp] theorem State.setK_b (i : KReg) (v : KeyEntry) : (s.setK i v).b = s.b := rfl
@[simp] theorem State.setK_k (i : KReg) (v : KeyEntry) : (s.setK i v).k = s.k.set i v := rfl
@[simp] theorem State.setK_p (i : KReg) (v : KeyEntry) : (s.setK i v).p = s.p := rfl
@[simp] theorem State.setK_pr (i : KReg) (v : KeyEntry) : (s.setK i v).pr = s.pr := rfl
@[simp] theorem State.setK_sk (i : KReg) (v : KeyEntry) : (s.setK i v).sk = s.sk := rfl
@[simp] theorem State.setK_ct (i : KReg) (v : KeyEntry) : (s.setK i v).ct = s.ct := rfl
@[simp] theorem State.setK_g (i : KReg) (v : KeyEntry) : (s.setK i v).g = s.g := rfl
@[simp] theorem State.setK_result (i : KReg) (v : KeyEntry) : (s.setK i v).result = s.result := rfl
@[simp] theorem State.setK_mem (i : KReg) (v : KeyEntry) : (s.setK i v).mem = s.mem := rfl
@[simp] theorem State.setK_memSize (i : KReg) (v : KeyEntry) : (s.setK i v).memSize = s.memSize := rfl
@[simp] theorem State.setK_inbox (i : KReg) (v : KeyEntry) : (s.setK i v).inbox = s.inbox := rfl
@[simp] theorem State.setK_replies (i : KReg) (v : KeyEntry) : (s.setK i v).replies = s.replies := rfl
@[simp] theorem State.setK_entropy (i : KReg) (v : KeyEntry) : (s.setK i v).entropy = s.entropy := rfl
@[simp] theorem State.setK_draws (i : KReg) (v : KeyEntry) : (s.setK i v).draws = s.draws := rfl

/-! ### setP -/

@[simp] theorem State.setP_x (i : PReg) (v : PrpEntry) : (s.setP i v).x = s.x := rfl
@[simp] theorem State.setP_b (i : PReg) (v : PrpEntry) : (s.setP i v).b = s.b := rfl
@[simp] theorem State.setP_k (i : PReg) (v : PrpEntry) : (s.setP i v).k = s.k := rfl
@[simp] theorem State.setP_p (i : PReg) (v : PrpEntry) : (s.setP i v).p = s.p.set i v := rfl
@[simp] theorem State.setP_pr (i : PReg) (v : PrpEntry) : (s.setP i v).pr = s.pr := rfl
@[simp] theorem State.setP_sk (i : PReg) (v : PrpEntry) : (s.setP i v).sk = s.sk := rfl
@[simp] theorem State.setP_ct (i : PReg) (v : PrpEntry) : (s.setP i v).ct = s.ct := rfl
@[simp] theorem State.setP_g (i : PReg) (v : PrpEntry) : (s.setP i v).g = s.g := rfl
@[simp] theorem State.setP_result (i : PReg) (v : PrpEntry) : (s.setP i v).result = s.result := rfl
@[simp] theorem State.setP_mem (i : PReg) (v : PrpEntry) : (s.setP i v).mem = s.mem := rfl
@[simp] theorem State.setP_memSize (i : PReg) (v : PrpEntry) : (s.setP i v).memSize = s.memSize := rfl
@[simp] theorem State.setP_inbox (i : PReg) (v : PrpEntry) : (s.setP i v).inbox = s.inbox := rfl
@[simp] theorem State.setP_replies (i : PReg) (v : PrpEntry) : (s.setP i v).replies = s.replies := rfl
@[simp] theorem State.setP_entropy (i : PReg) (v : PrpEntry) : (s.setP i v).entropy = s.entropy := rfl
@[simp] theorem State.setP_draws (i : PReg) (v : PrpEntry) : (s.setP i v).draws = s.draws := rfl

/-! ### setPR -/

@[simp] theorem State.setPR_x (i : PrReg) (v : Params) : (s.setPR i v).x = s.x := rfl
@[simp] theorem State.setPR_b (i : PrReg) (v : Params) : (s.setPR i v).b = s.b := rfl
@[simp] theorem State.setPR_k (i : PrReg) (v : Params) : (s.setPR i v).k = s.k := rfl
@[simp] theorem State.setPR_p (i : PrReg) (v : Params) : (s.setPR i v).p = s.p := rfl
@[simp] theorem State.setPR_pr (i : PrReg) (v : Params) : (s.setPR i v).pr = s.pr.set i v := rfl
@[simp] theorem State.setPR_sk (i : PrReg) (v : Params) : (s.setPR i v).sk = s.sk := rfl
@[simp] theorem State.setPR_ct (i : PrReg) (v : Params) : (s.setPR i v).ct = s.ct := rfl
@[simp] theorem State.setPR_g (i : PrReg) (v : Params) : (s.setPR i v).g = s.g := rfl
@[simp] theorem State.setPR_result (i : PrReg) (v : Params) : (s.setPR i v).result = s.result := rfl
@[simp] theorem State.setPR_mem (i : PrReg) (v : Params) : (s.setPR i v).mem = s.mem := rfl
@[simp] theorem State.setPR_memSize (i : PrReg) (v : Params) : (s.setPR i v).memSize = s.memSize := rfl
@[simp] theorem State.setPR_inbox (i : PrReg) (v : Params) : (s.setPR i v).inbox = s.inbox := rfl
@[simp] theorem State.setPR_replies (i : PrReg) (v : Params) : (s.setPR i v).replies = s.replies := rfl
@[simp] theorem State.setPR_entropy (i : PrReg) (v : Params) : (s.setPR i v).entropy = s.entropy := rfl
@[simp] theorem State.setPR_draws (i : PrReg) (v : Params) : (s.setPR i v).draws = s.draws := rfl

/-! ### setS -/

@[simp] theorem State.setS_x (i : SReg) (v : SecretKey) : (s.setS i v).x = s.x := rfl
@[simp] theorem State.setS_b (i : SReg) (v : SecretKey) : (s.setS i v).b = s.b := rfl
@[simp] theorem State.setS_k (i : SReg) (v : SecretKey) : (s.setS i v).k = s.k := rfl
@[simp] theorem State.setS_p (i : SReg) (v : SecretKey) : (s.setS i v).p = s.p := rfl
@[simp] theorem State.setS_pr (i : SReg) (v : SecretKey) : (s.setS i v).pr = s.pr := rfl
@[simp] theorem State.setS_sk (i : SReg) (v : SecretKey) : (s.setS i v).sk = s.sk.set i v := rfl
@[simp] theorem State.setS_ct (i : SReg) (v : SecretKey) : (s.setS i v).ct = s.ct := rfl
@[simp] theorem State.setS_g (i : SReg) (v : SecretKey) : (s.setS i v).g = s.g := rfl
@[simp] theorem State.setS_result (i : SReg) (v : SecretKey) : (s.setS i v).result = s.result := rfl
@[simp] theorem State.setS_mem (i : SReg) (v : SecretKey) : (s.setS i v).mem = s.mem := rfl
@[simp] theorem State.setS_memSize (i : SReg) (v : SecretKey) : (s.setS i v).memSize = s.memSize := rfl
@[simp] theorem State.setS_inbox (i : SReg) (v : SecretKey) : (s.setS i v).inbox = s.inbox := rfl
@[simp] theorem State.setS_replies (i : SReg) (v : SecretKey) : (s.setS i v).replies = s.replies := rfl
@[simp] theorem State.setS_entropy (i : SReg) (v : SecretKey) : (s.setS i v).entropy = s.entropy := rfl
@[simp] theorem State.setS_draws (i : SReg) (v : SecretKey) : (s.setS i v).draws = s.draws := rfl

/-! ### setC -/

@[simp] theorem State.setC_x (i : CReg) (v : Ciphertext) : (s.setC i v).x = s.x := rfl
@[simp] theorem State.setC_b (i : CReg) (v : Ciphertext) : (s.setC i v).b = s.b := rfl
@[simp] theorem State.setC_k (i : CReg) (v : Ciphertext) : (s.setC i v).k = s.k := rfl
@[simp] theorem State.setC_p (i : CReg) (v : Ciphertext) : (s.setC i v).p = s.p := rfl
@[simp] theorem State.setC_pr (i : CReg) (v : Ciphertext) : (s.setC i v).pr = s.pr := rfl
@[simp] theorem State.setC_sk (i : CReg) (v : Ciphertext) : (s.setC i v).sk = s.sk := rfl
@[simp] theorem State.setC_ct (i : CReg) (v : Ciphertext) : (s.setC i v).ct = s.ct.set i v := rfl
@[simp] theorem State.setC_g (i : CReg) (v : Ciphertext) : (s.setC i v).g = s.g := rfl
@[simp] theorem State.setC_result (i : CReg) (v : Ciphertext) : (s.setC i v).result = s.result := rfl
@[simp] theorem State.setC_mem (i : CReg) (v : Ciphertext) : (s.setC i v).mem = s.mem := rfl
@[simp] theorem State.setC_memSize (i : CReg) (v : Ciphertext) : (s.setC i v).memSize = s.memSize := rfl
@[simp] theorem State.setC_inbox (i : CReg) (v : Ciphertext) : (s.setC i v).inbox = s.inbox := rfl
@[simp] theorem State.setC_replies (i : CReg) (v : Ciphertext) : (s.setC i v).replies = s.replies := rfl
@[simp] theorem State.setC_entropy (i : CReg) (v : Ciphertext) : (s.setC i v).entropy = s.entropy := rfl
@[simp] theorem State.setC_draws (i : CReg) (v : Ciphertext) : (s.setC i v).draws = s.draws := rfl

/-! ### setG -/

@[simp] theorem State.setG_x (v : Generator) : (s.setG v).x = s.x := rfl
@[simp] theorem State.setG_b (v : Generator) : (s.setG v).b = s.b := rfl
@[simp] theorem State.setG_k (v : Generator) : (s.setG v).k = s.k := rfl
@[simp] theorem State.setG_p (v : Generator) : (s.setG v).p = s.p := rfl
@[simp] theorem State.setG_pr (v : Generator) : (s.setG v).pr = s.pr := rfl
@[simp] theorem State.setG_sk (v : Generator) : (s.setG v).sk = s.sk := rfl
@[simp] theorem State.setG_ct (v : Generator) : (s.setG v).ct = s.ct := rfl
@[simp] theorem State.setG_g (v : Generator) : (s.setG v).g = v := rfl
@[simp] theorem State.setG_result (v : Generator) : (s.setG v).result = s.result := rfl
@[simp] theorem State.setG_mem (v : Generator) : (s.setG v).mem = s.mem := rfl
@[simp] theorem State.setG_memSize (v : Generator) : (s.setG v).memSize = s.memSize := rfl
@[simp] theorem State.setG_inbox (v : Generator) : (s.setG v).inbox = s.inbox := rfl
@[simp] theorem State.setG_replies (v : Generator) : (s.setG v).replies = s.replies := rfl
@[simp] theorem State.setG_entropy (v : Generator) : (s.setG v).entropy = s.entropy := rfl
@[simp] theorem State.setG_draws (v : Generator) : (s.setG v).draws = s.draws := rfl

/-! ### setMem -/

@[simp] theorem State.setMem_x (m : Memory) : (s.setMem m).x = s.x := rfl
@[simp] theorem State.setMem_b (m : Memory) : (s.setMem m).b = s.b := rfl
@[simp] theorem State.setMem_k (m : Memory) : (s.setMem m).k = s.k := rfl
@[simp] theorem State.setMem_p (m : Memory) : (s.setMem m).p = s.p := rfl
@[simp] theorem State.setMem_pr (m : Memory) : (s.setMem m).pr = s.pr := rfl
@[simp] theorem State.setMem_sk (m : Memory) : (s.setMem m).sk = s.sk := rfl
@[simp] theorem State.setMem_ct (m : Memory) : (s.setMem m).ct = s.ct := rfl
@[simp] theorem State.setMem_g (m : Memory) : (s.setMem m).g = s.g := rfl
@[simp] theorem State.setMem_result (m : Memory) : (s.setMem m).result = s.result := rfl
@[simp] theorem State.setMem_mem (m : Memory) : (s.setMem m).mem = m := rfl
@[simp] theorem State.setMem_memSize (m : Memory) : (s.setMem m).memSize = s.memSize := rfl
@[simp] theorem State.setMem_inbox (m : Memory) : (s.setMem m).inbox = s.inbox := rfl
@[simp] theorem State.setMem_replies (m : Memory) : (s.setMem m).replies = s.replies := rfl
@[simp] theorem State.setMem_entropy (m : Memory) : (s.setMem m).entropy = s.entropy := rfl
@[simp] theorem State.setMem_draws (m : Memory) : (s.setMem m).draws = s.draws := rfl

/-! ### raise -/

@[simp] theorem State.raise_x (c : ResultCode) : (s.raise c).x = s.x := rfl
@[simp] theorem State.raise_b (c : ResultCode) : (s.raise c).b = s.b := rfl
@[simp] theorem State.raise_k (c : ResultCode) : (s.raise c).k = s.k := rfl
@[simp] theorem State.raise_p (c : ResultCode) : (s.raise c).p = s.p := rfl
@[simp] theorem State.raise_pr (c : ResultCode) : (s.raise c).pr = s.pr := rfl
@[simp] theorem State.raise_sk (c : ResultCode) : (s.raise c).sk = s.sk := rfl
@[simp] theorem State.raise_ct (c : ResultCode) : (s.raise c).ct = s.ct := rfl
@[simp] theorem State.raise_g (c : ResultCode) : (s.raise c).g = s.g := rfl
@[simp] theorem State.raise_result (c : ResultCode) : (s.raise c).result = resultNumber c := rfl
@[simp] theorem State.raise_mem (c : ResultCode) : (s.raise c).mem = s.mem := rfl
@[simp] theorem State.raise_memSize (c : ResultCode) : (s.raise c).memSize = s.memSize := rfl
@[simp] theorem State.raise_inbox (c : ResultCode) : (s.raise c).inbox = s.inbox := rfl
@[simp] theorem State.raise_replies (c : ResultCode) : (s.raise c).replies = s.replies := rfl
@[simp] theorem State.raise_entropy (c : ResultCode) : (s.raise c).entropy = s.entropy := rfl
@[simp] theorem State.raise_draws (c : ResultCode) : (s.raise c).draws = s.draws := rfl

/-! ### done -/

@[simp] theorem State.done_x : (s.done).x = s.x := rfl
@[simp] theorem State.done_b : (s.done).b = s.b := rfl
@[simp] theorem State.done_k : (s.done).k = s.k := rfl
@[simp] theorem State.done_p : (s.done).p = s.p := rfl
@[simp] theorem State.done_pr : (s.done).pr = s.pr := rfl
@[simp] theorem State.done_sk : (s.done).sk = s.sk := rfl
@[simp] theorem State.done_ct : (s.done).ct = s.ct := rfl
@[simp] theorem State.done_g : (s.done).g = s.g := rfl
@[simp] theorem State.done_result : (s.done).result = 0 := rfl
@[simp] theorem State.done_mem : (s.done).mem = s.mem := rfl
@[simp] theorem State.done_memSize : (s.done).memSize = s.memSize := rfl
@[simp] theorem State.done_inbox : (s.done).inbox = s.inbox := rfl
@[simp] theorem State.done_replies : (s.done).replies = s.replies := rfl
@[simp] theorem State.done_entropy : (s.done).entropy = s.entropy := rfl
@[simp] theorem State.done_draws : (s.done).draws = s.draws := rfl

/-! ### afterDraw -/

@[simp] theorem State.afterDraw_x : (s.afterDraw).x = s.x := rfl
@[simp] theorem State.afterDraw_b : (s.afterDraw).b = s.b := rfl
@[simp] theorem State.afterDraw_k : (s.afterDraw).k = s.k := rfl
@[simp] theorem State.afterDraw_p : (s.afterDraw).p = s.p := rfl
@[simp] theorem State.afterDraw_pr : (s.afterDraw).pr = s.pr := rfl
@[simp] theorem State.afterDraw_sk : (s.afterDraw).sk = s.sk := rfl
@[simp] theorem State.afterDraw_ct : (s.afterDraw).ct = s.ct := rfl
@[simp] theorem State.afterDraw_g : (s.afterDraw).g = s.g := rfl
@[simp] theorem State.afterDraw_result : (s.afterDraw).result = s.result := rfl
@[simp] theorem State.afterDraw_mem : (s.afterDraw).mem = s.mem := rfl
@[simp] theorem State.afterDraw_memSize : (s.afterDraw).memSize = s.memSize := rfl
@[simp] theorem State.afterDraw_inbox : (s.afterDraw).inbox = s.inbox := rfl
@[simp] theorem State.afterDraw_replies : (s.afterDraw).replies = s.replies := rfl
@[simp] theorem State.afterDraw_entropy : (s.afterDraw).entropy = s.entropy.tail := rfl
@[simp] theorem State.afterDraw_draws : (s.afterDraw).draws = s.draws + 1 := rfl

/-! ### reply -/

@[simp] theorem State.reply_x (r : HostReply) : (s.reply r).x = s.x := rfl
@[simp] theorem State.reply_b (r : HostReply) : (s.reply r).b = s.b := rfl
@[simp] theorem State.reply_k (r : HostReply) : (s.reply r).k = s.k := rfl
@[simp] theorem State.reply_p (r : HostReply) : (s.reply r).p = s.p := rfl
@[simp] theorem State.reply_pr (r : HostReply) : (s.reply r).pr = s.pr := rfl
@[simp] theorem State.reply_sk (r : HostReply) : (s.reply r).sk = s.sk := rfl
@[simp] theorem State.reply_ct (r : HostReply) : (s.reply r).ct = s.ct := rfl
@[simp] theorem State.reply_g (r : HostReply) : (s.reply r).g = s.g := rfl
@[simp] theorem State.reply_result (r : HostReply) : (s.reply r).result = s.result := rfl
@[simp] theorem State.reply_mem (r : HostReply) : (s.reply r).mem = s.mem := rfl
@[simp] theorem State.reply_memSize (r : HostReply) : (s.reply r).memSize = s.memSize := rfl
@[simp] theorem State.reply_inbox (r : HostReply) : (s.reply r).inbox = s.inbox := rfl
@[simp] theorem State.reply_replies (r : HostReply) : (s.reply r).replies = s.replies ++ [r] := rfl
@[simp] theorem State.reply_entropy (r : HostReply) : (s.reply r).entropy = s.entropy := rfl
@[simp] theorem State.reply_draws (r : HostReply) : (s.reply r).draws = s.draws := rfl

/-! ### Reading a file entry after an update -/

@[simp] theorem State.setX_getX_self (i : XReg) (v : XWord) : (s.setX i v).getX i = v := by
  simp [State.getX, State.setX]
theorem State.setX_getX_ne (i : XReg) (v : XWord) (j : XReg) (h : j ≠ i) : (s.setX i v).getX j = s.getX j := by
  simp only [State.getX, State.setX, Fin.getElem_fin]
  exact Vector.getElem_set_ne _ _ (fun e => h (Fin.ext e.symm))
@[simp] theorem State.setX_getB (i : XReg) (v : XWord) (j : BReg) : (s.setX i v).getB j = s.getB j := rfl
@[simp] theorem State.setX_getK (i : XReg) (v : XWord) (j : KReg) : (s.setX i v).getK j = s.getK j := rfl
@[simp] theorem State.setX_getP (i : XReg) (v : XWord) (j : PReg) : (s.setX i v).getP j = s.getP j := rfl
@[simp] theorem State.setX_getPR (i : XReg) (v : XWord) (j : PrReg) : (s.setX i v).getPR j = s.getPR j := rfl
@[simp] theorem State.setX_getS (i : XReg) (v : XWord) (j : SReg) : (s.setX i v).getS j = s.getS j := rfl
@[simp] theorem State.setX_getC (i : XReg) (v : XWord) (j : CReg) : (s.setX i v).getC j = s.getC j := rfl
@[simp] theorem State.setB_getX (i : BReg) (v : Block) (j : XReg) : (s.setB i v).getX j = s.getX j := rfl
@[simp] theorem State.setB_getB_self (i : BReg) (v : Block) : (s.setB i v).getB i = v := by
  simp [State.getB, State.setB]
theorem State.setB_getB_ne (i : BReg) (v : Block) (j : BReg) (h : j ≠ i) : (s.setB i v).getB j = s.getB j := by
  simp only [State.getB, State.setB, Fin.getElem_fin]
  exact Vector.getElem_set_ne _ _ (fun e => h (Fin.ext e.symm))
@[simp] theorem State.setB_getK (i : BReg) (v : Block) (j : KReg) : (s.setB i v).getK j = s.getK j := rfl
@[simp] theorem State.setB_getP (i : BReg) (v : Block) (j : PReg) : (s.setB i v).getP j = s.getP j := rfl
@[simp] theorem State.setB_getPR (i : BReg) (v : Block) (j : PrReg) : (s.setB i v).getPR j = s.getPR j := rfl
@[simp] theorem State.setB_getS (i : BReg) (v : Block) (j : SReg) : (s.setB i v).getS j = s.getS j := rfl
@[simp] theorem State.setB_getC (i : BReg) (v : Block) (j : CReg) : (s.setB i v).getC j = s.getC j := rfl
@[simp] theorem State.setK_getX (i : KReg) (v : KeyEntry) (j : XReg) : (s.setK i v).getX j = s.getX j := rfl
@[simp] theorem State.setK_getB (i : KReg) (v : KeyEntry) (j : BReg) : (s.setK i v).getB j = s.getB j := rfl
@[simp] theorem State.setK_getK_self (i : KReg) (v : KeyEntry) : (s.setK i v).getK i = v := by
  simp [State.getK, State.setK]
theorem State.setK_getK_ne (i : KReg) (v : KeyEntry) (j : KReg) (h : j ≠ i) : (s.setK i v).getK j = s.getK j := by
  simp only [State.getK, State.setK, Fin.getElem_fin]
  exact Vector.getElem_set_ne _ _ (fun e => h (Fin.ext e.symm))
@[simp] theorem State.setK_getP (i : KReg) (v : KeyEntry) (j : PReg) : (s.setK i v).getP j = s.getP j := rfl
@[simp] theorem State.setK_getPR (i : KReg) (v : KeyEntry) (j : PrReg) : (s.setK i v).getPR j = s.getPR j := rfl
@[simp] theorem State.setK_getS (i : KReg) (v : KeyEntry) (j : SReg) : (s.setK i v).getS j = s.getS j := rfl
@[simp] theorem State.setK_getC (i : KReg) (v : KeyEntry) (j : CReg) : (s.setK i v).getC j = s.getC j := rfl
@[simp] theorem State.setP_getX (i : PReg) (v : PrpEntry) (j : XReg) : (s.setP i v).getX j = s.getX j := rfl
@[simp] theorem State.setP_getB (i : PReg) (v : PrpEntry) (j : BReg) : (s.setP i v).getB j = s.getB j := rfl
@[simp] theorem State.setP_getK (i : PReg) (v : PrpEntry) (j : KReg) : (s.setP i v).getK j = s.getK j := rfl
@[simp] theorem State.setP_getP_self (i : PReg) (v : PrpEntry) : (s.setP i v).getP i = v := by
  simp [State.getP, State.setP]
theorem State.setP_getP_ne (i : PReg) (v : PrpEntry) (j : PReg) (h : j ≠ i) : (s.setP i v).getP j = s.getP j := by
  simp only [State.getP, State.setP, Fin.getElem_fin]
  exact Vector.getElem_set_ne _ _ (fun e => h (Fin.ext e.symm))
@[simp] theorem State.setP_getPR (i : PReg) (v : PrpEntry) (j : PrReg) : (s.setP i v).getPR j = s.getPR j := rfl
@[simp] theorem State.setP_getS (i : PReg) (v : PrpEntry) (j : SReg) : (s.setP i v).getS j = s.getS j := rfl
@[simp] theorem State.setP_getC (i : PReg) (v : PrpEntry) (j : CReg) : (s.setP i v).getC j = s.getC j := rfl
@[simp] theorem State.setPR_getX (i : PrReg) (v : Params) (j : XReg) : (s.setPR i v).getX j = s.getX j := rfl
@[simp] theorem State.setPR_getB (i : PrReg) (v : Params) (j : BReg) : (s.setPR i v).getB j = s.getB j := rfl
@[simp] theorem State.setPR_getK (i : PrReg) (v : Params) (j : KReg) : (s.setPR i v).getK j = s.getK j := rfl
@[simp] theorem State.setPR_getP (i : PrReg) (v : Params) (j : PReg) : (s.setPR i v).getP j = s.getP j := rfl
@[simp] theorem State.setPR_getPR_self (i : PrReg) (v : Params) : (s.setPR i v).getPR i = v := by
  simp [State.getPR, State.setPR]
theorem State.setPR_getPR_ne (i : PrReg) (v : Params) (j : PrReg) (h : j ≠ i) : (s.setPR i v).getPR j = s.getPR j := by
  simp only [State.getPR, State.setPR, Fin.getElem_fin]
  exact Vector.getElem_set_ne _ _ (fun e => h (Fin.ext e.symm))
@[simp] theorem State.setPR_getS (i : PrReg) (v : Params) (j : SReg) : (s.setPR i v).getS j = s.getS j := rfl
@[simp] theorem State.setPR_getC (i : PrReg) (v : Params) (j : CReg) : (s.setPR i v).getC j = s.getC j := rfl
@[simp] theorem State.setS_getX (i : SReg) (v : SecretKey) (j : XReg) : (s.setS i v).getX j = s.getX j := rfl
@[simp] theorem State.setS_getB (i : SReg) (v : SecretKey) (j : BReg) : (s.setS i v).getB j = s.getB j := rfl
@[simp] theorem State.setS_getK (i : SReg) (v : SecretKey) (j : KReg) : (s.setS i v).getK j = s.getK j := rfl
@[simp] theorem State.setS_getP (i : SReg) (v : SecretKey) (j : PReg) : (s.setS i v).getP j = s.getP j := rfl
@[simp] theorem State.setS_getPR (i : SReg) (v : SecretKey) (j : PrReg) : (s.setS i v).getPR j = s.getPR j := rfl
@[simp] theorem State.setS_getS_self (i : SReg) (v : SecretKey) : (s.setS i v).getS i = v := by
  simp [State.getS, State.setS]
theorem State.setS_getS_ne (i : SReg) (v : SecretKey) (j : SReg) (h : j ≠ i) : (s.setS i v).getS j = s.getS j := by
  simp only [State.getS, State.setS, Fin.getElem_fin]
  exact Vector.getElem_set_ne _ _ (fun e => h (Fin.ext e.symm))
@[simp] theorem State.setS_getC (i : SReg) (v : SecretKey) (j : CReg) : (s.setS i v).getC j = s.getC j := rfl
@[simp] theorem State.setC_getX (i : CReg) (v : Ciphertext) (j : XReg) : (s.setC i v).getX j = s.getX j := rfl
@[simp] theorem State.setC_getB (i : CReg) (v : Ciphertext) (j : BReg) : (s.setC i v).getB j = s.getB j := rfl
@[simp] theorem State.setC_getK (i : CReg) (v : Ciphertext) (j : KReg) : (s.setC i v).getK j = s.getK j := rfl
@[simp] theorem State.setC_getP (i : CReg) (v : Ciphertext) (j : PReg) : (s.setC i v).getP j = s.getP j := rfl
@[simp] theorem State.setC_getPR (i : CReg) (v : Ciphertext) (j : PrReg) : (s.setC i v).getPR j = s.getPR j := rfl
@[simp] theorem State.setC_getS (i : CReg) (v : Ciphertext) (j : SReg) : (s.setC i v).getS j = s.getS j := rfl
@[simp] theorem State.setC_getC_self (i : CReg) (v : Ciphertext) : (s.setC i v).getC i = v := by
  simp [State.getC, State.setC]
theorem State.setC_getC_ne (i : CReg) (v : Ciphertext) (j : CReg) (h : j ≠ i) : (s.setC i v).getC j = s.getC j := by
  simp only [State.getC, State.setC, Fin.getElem_fin]
  exact Vector.getElem_set_ne _ _ (fun e => h (Fin.ext e.symm))
@[simp] theorem State.setG_getX (v : Generator) (j : XReg) : (s.setG v).getX j = s.getX j := rfl
@[simp] theorem State.setG_getB (v : Generator) (j : BReg) : (s.setG v).getB j = s.getB j := rfl
@[simp] theorem State.setG_getK (v : Generator) (j : KReg) : (s.setG v).getK j = s.getK j := rfl
@[simp] theorem State.setG_getP (v : Generator) (j : PReg) : (s.setG v).getP j = s.getP j := rfl
@[simp] theorem State.setG_getPR (v : Generator) (j : PrReg) : (s.setG v).getPR j = s.getPR j := rfl
@[simp] theorem State.setG_getS (v : Generator) (j : SReg) : (s.setG v).getS j = s.getS j := rfl
@[simp] theorem State.setG_getC (v : Generator) (j : CReg) : (s.setG v).getC j = s.getC j := rfl
@[simp] theorem State.setMem_getX (m : Memory) (j : XReg) : (s.setMem m).getX j = s.getX j := rfl
@[simp] theorem State.setMem_getB (m : Memory) (j : BReg) : (s.setMem m).getB j = s.getB j := rfl
@[simp] theorem State.setMem_getK (m : Memory) (j : KReg) : (s.setMem m).getK j = s.getK j := rfl
@[simp] theorem State.setMem_getP (m : Memory) (j : PReg) : (s.setMem m).getP j = s.getP j := rfl
@[simp] theorem State.setMem_getPR (m : Memory) (j : PrReg) : (s.setMem m).getPR j = s.getPR j := rfl
@[simp] theorem State.setMem_getS (m : Memory) (j : SReg) : (s.setMem m).getS j = s.getS j := rfl
@[simp] theorem State.setMem_getC (m : Memory) (j : CReg) : (s.setMem m).getC j = s.getC j := rfl
@[simp] theorem State.raise_getX (c : ResultCode) (j : XReg) : (s.raise c).getX j = s.getX j := rfl
@[simp] theorem State.raise_getB (c : ResultCode) (j : BReg) : (s.raise c).getB j = s.getB j := rfl
@[simp] theorem State.raise_getK (c : ResultCode) (j : KReg) : (s.raise c).getK j = s.getK j := rfl
@[simp] theorem State.raise_getP (c : ResultCode) (j : PReg) : (s.raise c).getP j = s.getP j := rfl
@[simp] theorem State.raise_getPR (c : ResultCode) (j : PrReg) : (s.raise c).getPR j = s.getPR j := rfl
@[simp] theorem State.raise_getS (c : ResultCode) (j : SReg) : (s.raise c).getS j = s.getS j := rfl
@[simp] theorem State.raise_getC (c : ResultCode) (j : CReg) : (s.raise c).getC j = s.getC j := rfl
@[simp] theorem State.done_getX (j : XReg) : (s.done).getX j = s.getX j := rfl
@[simp] theorem State.done_getB (j : BReg) : (s.done).getB j = s.getB j := rfl
@[simp] theorem State.done_getK (j : KReg) : (s.done).getK j = s.getK j := rfl
@[simp] theorem State.done_getP (j : PReg) : (s.done).getP j = s.getP j := rfl
@[simp] theorem State.done_getPR (j : PrReg) : (s.done).getPR j = s.getPR j := rfl
@[simp] theorem State.done_getS (j : SReg) : (s.done).getS j = s.getS j := rfl
@[simp] theorem State.done_getC (j : CReg) : (s.done).getC j = s.getC j := rfl
@[simp] theorem State.afterDraw_getX (j : XReg) : (s.afterDraw).getX j = s.getX j := rfl
@[simp] theorem State.afterDraw_getB (j : BReg) : (s.afterDraw).getB j = s.getB j := rfl
@[simp] theorem State.afterDraw_getK (j : KReg) : (s.afterDraw).getK j = s.getK j := rfl
@[simp] theorem State.afterDraw_getP (j : PReg) : (s.afterDraw).getP j = s.getP j := rfl
@[simp] theorem State.afterDraw_getPR (j : PrReg) : (s.afterDraw).getPR j = s.getPR j := rfl
@[simp] theorem State.afterDraw_getS (j : SReg) : (s.afterDraw).getS j = s.getS j := rfl
@[simp] theorem State.afterDraw_getC (j : CReg) : (s.afterDraw).getC j = s.getC j := rfl
@[simp] theorem State.reply_getX (r : HostReply) (j : XReg) : (s.reply r).getX j = s.getX j := rfl
@[simp] theorem State.reply_getB (r : HostReply) (j : BReg) : (s.reply r).getB j = s.getB j := rfl
@[simp] theorem State.reply_getK (r : HostReply) (j : KReg) : (s.reply r).getK j = s.getK j := rfl
@[simp] theorem State.reply_getP (r : HostReply) (j : PReg) : (s.reply r).getP j = s.getP j := rfl
@[simp] theorem State.reply_getPR (r : HostReply) (j : PrReg) : (s.reply r).getPR j = s.getPR j := rfl
@[simp] theorem State.reply_getS (r : HostReply) (j : SReg) : (s.reply r).getS j = s.getS j := rfl
@[simp] theorem State.reply_getC (r : HostReply) (j : CReg) : (s.reply r).getC j = s.getC j := rfl

end Sys2Proof.Machine
end

