-- ==== Sys2Proof/Laws/Endings.lean ====
section
/-! SUPPORT. How a command ends, once for every shape of ending: what `raise`, `done` after a write,
and a draw leave, in the terms of Safety.lean. -/

namespace Sys2Proof.Machine

variable (s : State)

/-- Every part is the same in a state and itself. -/
theorem samePart_rfl (q : Part) : samePart q s s := by
  cases q <;> simp [samePart]

theorem samePart_trans {q : Part} {s t u : State} (h : samePart q s t) (g : samePart q t u) :
    samePart q s u := by
  cases q <;> simp_all [samePart]

/-- A longer list of parts is a weaker frame. -/
theorem ChangesOnly.mono {ps qs : List Part} {s t : State} (h : ChangesOnly ps s t) (hs : ps ⊆ qs) :
    ChangesOnly qs s t :=
  fun q hq => h q (fun hp => hq (hs hp))

theorem ends_next {i : Instr} {t : State} {post : State → Prop} (h : exec i s = .next t) (hp : post t) :
    Ends i s post :=
  ⟨t, h, hp⟩

theorem raised_raise (c : ResultCode) : Raised (resultNumber c) s (s.raise c) := by
  refine ⟨rfl, fun q hq => ?_⟩
  cases q <;> simp_all [samePart]

theorem raisedRandomness_one : RaisedRandomness 1 s (s.afterDraw.raise .randomness) := by
  refine ⟨rfl, ⟨by simp, by simp⟩, fun q hq => ?_⟩
  cases q <;> simp_all [samePart]

theorem raisedRandomness_two : RaisedRandomness 2 s (s.afterDraw.afterDraw.raise .randomness) := by
  have drop_two : s.entropy.tail.tail = s.entropy.drop 2 := by rcases s.entropy with _ | ⟨_, _ | _⟩ <;> rfl
  refine ⟨rfl, ⟨by simpa using drop_two, by simp⟩, fun q hq => ?_⟩
  cases q <;> simp_all [samePart]

theorem wroteX_done (xd : XReg) (v : XWord) : WroteX xd v s (s.setX xd v).done := by
  refine ⟨by simp, fun j hj => by simpa using State.setX_getX_ne s xd v j hj, rfl, fun q hq => ?_⟩
  cases q <;> simp_all [samePart]

theorem wroteB_done (bd : BReg) (v : Block) : WroteB bd v s (s.setB bd v).done := by
  refine ⟨by simp, fun j hj => by simpa using State.setB_getB_ne s bd v j hj, rfl, fun q hq => ?_⟩
  cases q <;> simp_all [samePart]

theorem wroteK_done (also : List Part) (kd : KReg) (v : KeyEntry) :
    WroteK also kd v s (s.setK kd v).done := by
  refine ⟨by simp, fun j hj => by simpa using State.setK_getK_ne s kd v j hj, rfl, fun q hq => ?_⟩
  cases q <;> simp_all [samePart]

theorem wroteP_done (pd : PReg) (v : PrpEntry) : WroteP pd v s (s.setP pd v).done := by
  refine ⟨by simp, fun j hj => by simpa using State.setP_getP_ne s pd v j hj, rfl, fun q hq => ?_⟩
  cases q <;> simp_all [samePart]

theorem wrotePR_done (prd : PrReg) (v : Params) : WrotePR prd v s (s.setPR prd v).done := by
  refine ⟨by simp, fun j hj => by simpa using State.setPR_getPR_ne s prd v j hj, rfl, fun q hq => ?_⟩
  cases q <;> simp_all [samePart]

theorem wroteS_done (also : List Part) (sd : SReg) (v : SecretKey) :
    WroteS also sd v s (s.setS sd v).done := by
  refine ⟨by simp, fun j hj => by simpa using State.setS_getS_ne s sd v j hj, rfl, fun q hq => ?_⟩
  cases q <;> simp_all [samePart]

theorem wroteC_done (also : List Part) (cd : CReg) (v : Ciphertext) :
    WroteC also cd v s (s.setC cd v).done := by
  refine ⟨by simp, fun j hj => by simpa using State.setC_getC_ne s cd v j hj, rfl, fun q hq => ?_⟩
  cases q <;> simp_all [samePart]

/-- A descriptor write after a store: M is then among the parts that may change. -/
theorem wroteC_stored (m : Memory) (cd : CReg) (v : Ciphertext) :
    WroteC [.mem] cd v s ((s.setMem m).setC cd v).done := by
  refine ⟨by simp, fun j hj => by simpa using State.setC_getC_ne (s.setMem m) cd v j hj, rfl,
    fun q hq => ?_⟩
  cases q <;> simp_all [samePart]

/-- A store of a memory that differs from the old one inside `n` bytes at `a` only. -/
theorem storedIn_done {m : Memory} {a n : Nat}
    (h : ∀ c, c < a ∨ a + n ≤ c → m.read c = s.mem.read c) : StoredIn a n s (s.setMem m).done := by
  refine ⟨h, rfl, fun q hq => ?_⟩
  cases q <;> simp_all [samePart]

/-! ### The generator -/

/-- `GenNext` answers the block of the generator in use, or fails, and does nothing else. -/
theorem genNext_eq :
    s.genNext = match generatorUsed s with
      | none => (none, s.afterDraw)
      | some g =>
        (some (aes g.rk g.ctr),
          (if s.g.seeded then s else s.afterDraw).setG { seeded := true, rk := g.rk, ctr := g.ctr + 1 }) := by
  rcases hg : s.g with ⟨seeded, rk, ctr⟩
  cases seeded with
  | true => simp [State.genNext, generatorUsed, hg, generatorBlock, generatorAfter, blk]
  | false =>
    cases he : s.nextAnswer <;>
      simp [State.genNext, generatorUsed, hg, he, generatorBlock, generatorAfter, seededGenerator, blk]

/-- An unseeded generator with a failing oracle is the only case without a block. -/
theorem generatorUsed_none (h : generatorUsed s = none) : s.g.seeded = false := by
  unfold generatorUsed at h
  split at h
  · simp at h
  · simp_all

end Sys2Proof.Machine
end

