-- ==== Sys2Proof/Laws/Moves.lean ====
section
/-! SUPPORT. The buffer moves of the batched commands: one more element, and the bytes outside the
destination. -/

namespace Sys2Proof.Machine

theorem encryptBlocks_succ (rk : ExpandedKey) (dst src n : Nat) (m : Memory) :
    encryptBlocks rk dst src (n + 1) m =
      (encryptBlocks rk dst src n m).writeBlock (dst + 16 * n)
        (aes rk ((encryptBlocks rk dst src n m).readBlock (src + 16 * n))) := by
  rw [encryptBlocks, forUpTo_succ]
  rfl

theorem oracleBytes_succ (rk : ExpandedKey) (dst src n : Nat) (m : Memory) :
    oracleBytes rk dst src (n + 1) m =
      (oracleBytes rk dst src n m).write (dst + n)
        (((aes rk ((oracleBytes rk dst src n m).readBlock (src + 16 * n))).extractLsb' 0 1).zeroExtend 8) := by
  rw [oracleBytes, forUpTo_succ]
  rfl

theorem writeTable_succ (f : Nat → Nat) (dst n : Nat) (m : Memory) :
    writeTable f dst (n + 1) m = (writeTable f dst n m).writeBE (dst + 2 * n) 2 (f n) := by
  rw [writeTable, forUpTo_succ]
  rfl

theorem encryptBlocks_outside (rk : ExpandedKey) (dst src n : Nat) (m : Memory) {c : Nat}
    (h : c < dst ∨ dst + 16 * n ≤ c) : (encryptBlocks rk dst src n m).read c = m.read c := by
  induction n with
  | zero => rfl
  | succ n ih =>
    rw [encryptBlocks_succ, Memory.read_writeBlock_outside _ _ (by omega)]
    exact ih (by omega)

theorem oracleBytes_outside (rk : ExpandedKey) (dst src n : Nat) (m : Memory) {c : Nat}
    (h : c < dst ∨ dst + n ≤ c) : (oracleBytes rk dst src n m).read c = m.read c := by
  induction n with
  | zero => rfl
  | succ n ih =>
    rw [oracleBytes_succ, Memory.read_write_ne _ _ (by omega)]
    exact ih (by omega)

theorem writeTable_outside (f : Nat → Nat) (dst n : Nat) (m : Memory) {c : Nat}
    (h : c < dst ∨ dst + 2 * n ≤ c) : (writeTable f dst n m).read c = m.read c := by
  induction n with
  | zero => rfl
  | succ n ih =>
    rw [writeTable_succ, Memory.writeBE, Memory.read_writeBytes_outside _ _ (by simp; omega)]
    exact ih (by omega)

/-- In place or with the source clear of the first `n` destination blocks, source block `n` is still
as it was. -/
theorem encryptBlocks_source (rk : ExpandedKey) (dst src n : Nat) (m : Memory)
    (h : dst = src ∨ dst + 16 * n ≤ src + 16 * n ∨ src + 16 * n + 16 ≤ dst) :
    (encryptBlocks rk dst src n m).readBlock (src + 16 * n) = m.readBlock (src + 16 * n) := by
  apply Memory.readBlock_congr
  intro k hk
  apply encryptBlocks_outside
  omega

end Sys2Proof.Machine
end

