-- ==== Sys2Proof/Laws/Prp.lean ====
section
/-! SUPPORT. One round of the Feistel network keeps halves below `2^h`, and undoes itself when the
halves are swapped. -/

namespace Sys2Proof.Machine

theorem prpRound_lt {rk : ExpandedKey} {h : Nat} {lr : Nat × Nat} (h1 : lr.1 < 2 ^ h)
    (h2 : lr.2 < 2 ^ h) : (prpRound rk h lr).1 < 2 ^ h ∧ (prpRound rk h lr).2 < 2 ^ h :=
  ⟨h2, Nat.xor_lt_two_pow h1 (Nat.mod_lt _ (by positivity))⟩

theorem prpRound_swap (rk : ExpandedKey) (h : Nat) (lr : Nat × Nat) :
    prpRound rk h ((prpRound rk h lr).2, (prpRound rk h lr).1) = (lr.2, lr.1) := by
  simp [prpRound]

end Sys2Proof.Machine
end

