-- ==== Sys2Proof/Tests/Slice0.lean ====
section
/-! SUPPORT. The model's own tests. Expected values come from spec/: the examples of the rules and the
vectors of 95_test_vectors.md. `test_…` is a check of the model; `witness_…` shows states and operands
that meet the hypotheses of a statement, each of its clauses at a boundary, and what the command then
answers. -/

namespace Sys2Proof.Tests

set_option Elab.async false

open Sys2Proof.Machine

/-! ## Helpers -/

/-- The state after a command; the state before it if there were none. -/
def after (i : Instr) (s : State) : State :=
  match exec i s with
  | .next t => t
  | .fault _ => s
  | .refused _ => s

/-- The result code of a command. -/
def code (i : Instr) (s : State) : Nat := (after i s).result.toNat

/-- The state after a step; the state before it where the step stops. -/
def stepped (s : State) : State :=
  match step s with
  | .next t => t
  | .fault _ => s
  | .refused _ => s

/-- The refusal of a step. -/
def refusal (s : State) : Option Refusal :=
  match step s with
  | .next _ => none
  | .fault _ => none
  | .refused r => some r

/-- A machine after power-on with 1024 bytes of memory, all zero. -/
def lab : State := State.powerOn { cells := [] } ⟨1024, by decide⟩

/-- `KA` of 95_test_vectors.md. -/
def keyA : Block := 0x000102030405060708090A0B0C0D0E0F

/-- `KB` of 95_test_vectors.md. -/
def keyB : Block := 0x101112131415161718191A1B1C1D1E1F

/-- `KG` of 95_test_vectors.md. -/
def keyG : Block := 0x202122232425262728292A2B2C2D2E2F

/-- The plaintext of FIPS-197 C.1. -/
def plain : Block := 0x00112233445566778899AABBCCDDEEFF

/-- `lab` with `K[0]` expanded from `KA`. -/
def labK : State := lab.setK 0 { st := .initialized, rk := keyExpansion keyA }

/-- `lab` with `P[0]` made from `KA`. -/
def labP : State := lab.setP 0 { st := .initialized, rk := prpKeyExpand (keyExpansion keyA) }

/-- Params of a scheme. -/
def par (scheme : Scheme) (n bp : Nat) : Params :=
  { init := true, scheme := scheme, nbits := BitVec.ofNat 32 n, bp := BitVec.ofNat 32 bp }

/-- `s` with these numbers in `X[1]` to `X[4]`. -/
def withX (s : State) (a b c d : Nat) : State :=
  (((s.setX 1 (BitVec.ofNat 64 a)).setX 2 (BitVec.ofNat 64 b)).setX 3 (BitVec.ofNat 64 c)).setX 4
    (BitVec.ofNat 64 d)

/-- `lab` with a SecretKey `S[0]` of `KA`, `KB`, a descriptor `C[0]` at `base`, both under `p`, and the
message `m` in `X[1]`. -/
def labOre (p : Params) (st : CtState) (base m : Nat) : State :=
  ((lab.setS 0 { st := .initialized, par := p, prf := keyExpansion keyA, prp := keyExpansion keyB }).setC
    0 { st := st, par := p, base := BitVec.ofNat 64 base }).setX 1 (BitVec.ofNat 64 m)

/-- `lab` with two populated descriptors at `0x100` and `0x200`. -/
def labTwo (p q : Params) (a b : List Byte) : State :=
  ((lab.setC 0 { st := .populated, par := p, base := 0x100 }).setC 1
    { st := .populated, par := q, base := 0x200 }).setMem
    ((lab.mem.writeBytes 0x100 a).writeBytes 0x200 b)

/-- A line of assembly. -/
def line (m : Mnemonic) (operands : List AsmOperand) : AsmLine := { mnemonic := m, operands := operands }

/-! ## Well-formed lines: one ill-formed line for each check (30_encoding.md R80 to R85) -/

theorem test_wf_accepts : (line .LI [.reg .x 3, .imm 0x1234]).WellFormed ∧ (line .NOP []).WellFormed ∧
    (line .PRFM [.reg .k 0, .reg .x 1, .reg .x 2, .reg .x 3, .reg .x 15]).WellFormed := by decide

theorem test_wf_too_few_operands : (line .LI [.reg .x 3]).check = .error .operandCount := by decide

theorem test_wf_too_many_operands : (line .NOP [.reg .x 3]).check = .error .operandCount := by decide

theorem test_wf_wrong_file : (line .KEXP [.reg .k 0, .reg .x 1]).check = .error .wrongKind := by decide

theorem test_wf_register_for_immediate : (line .LI [.reg .x 3, .reg .x 4]).check = .error .wrongKind := by
  decide

theorem test_wf_immediate_for_register : (line .GNEXT [.imm 3]).check = .error .wrongKind := by decide

theorem test_wf_register_number : (line .KCLR [.reg .k 15]).WellFormed ∧
    (line .KCLR [.reg .k 16]).check = .error .registerRange := by decide

theorem test_wf_immediate : (line .LI [.reg .x 3, .imm 65535]).WellFormed ∧
    (line .LI [.reg .x 3, .imm 65536]).check = .error .immediateRange := by decide

theorem test_wf_wide_immediate : (line .LI64 [.reg .x 3, .imm (2 ^ 64)]).check = .error .immediateRange ∧
    (line .LB128 [.reg .b 0, .reg .x 1, .reg .x 2, .imm (2 ^ 128)]).check = .error .immediateRange := by
  decide

/-- R83's example. -/
theorem test_assemble_line : assemble (line .AESE [.reg .b 2, .reg .k 0, .reg .b 1]) = .ok [0x14201000] := by
  decide

theorem test_assemble_refuses : assemble (line .AESE [.reg .b 2, .reg .b 0, .reg .b 1]) = .error .wrongKind := by
  decide

/-- R84: four commands, `LI` first. -/
theorem test_assemble_li64 : assemble (line .LI64 [.reg .x 5, .imm 0x0001020304050607]) =
    .ok [0x01500001, 0x02500203, 0x02500405, 0x02500607] := by decide

/-- R80 to R83: lines of 95_test_vectors.md's form, a comment, a line without a mnemonic. -/
theorem test_assemble_text : assembleText "AESE b2, k0, b1".toList = .ok [0x14201000] ∧
    assembleText "LI x3, 0x1234 ; a message".toList = .ok [0x01301234] ∧
    assembleText "PINITL pr1,x1,x2".toList = .ok [0x51112000] ∧ assembleText "NOP".toList = .ok [0] ∧
    assembleText "  ; nothing".toList = .ok [] := by decide +kernel

theorem test_wf_unknown_mnemonic : assembleText "nop".toList = .error .unknownMnemonic ∧
    assembleText "LI128 x3, 1".toList = .error .unknownMnemonic := by decide +kernel

theorem test_wf_bad_operand : assembleText "KCLR q1".toList = .error .badOperand ∧
    assembleText "KCLR k16".toList = .error .registerRange ∧
    assembleText "KCLR pr1".toList = .error .wrongKind ∧
    assembleText "LI x3, 65536".toList = .error .immediateRange ∧
    assembleText "LI x3, 12Z".toList = .error .badOperand := by decide +kernel

/-! ## Decoding: the spec's own words, then one word of each command with distinct operands -/

theorem test_decode_data_movement : decode 0x00000000 = .ok .nop ∧ decode 0x01301234 = .ok (.li 3 0x1234) ∧
    decode 0x0230ABCD = .ok (.lih 3 0xABCD) ∧ decode 0x03012000 = .ok (.mkb 0 1 2) ∧
    decode 0x04500000 = .ok (.xbh 5 0) ∧ decode 0x05600000 = .ok (.xbl 6 0) ∧
    decode 0x06140000 = .ok (.ldb 1 4) ∧ decode 0x07240000 = .ok (.stb 2 4) := by decide

theorem test_decode_block_cipher : decode 0x10300000 = .ok (.kgen 3) ∧ decode 0x11120000 = .ok (.kexp 1 2) ∧
    decode 0x12112000 = .ok (.kexpm 1 1 2) ∧ decode 0x12123000 = .ok (.kexpm 1 2 3) ∧
    decode 0x13F00000 = .ok (.kclr 15) ∧ decode 0x14201000 = .ok (.aese 2 0 1) ∧
    decode 0x14123000 = .ok (.aese 1 2 3) ∧ decode 0x15012300 = .ok (.aesem 0 1 2 3) := by decide

theorem test_decode_prf_and_oracle : decode 0x20123000 = .ok (.prf 1 2 3) ∧
    decode 0x21012340 = .ok (.prfm 0 1 2 3 4) ∧ decode 0x24710000 = .ok (.ro 7 1 0) ∧
    decode 0x24123000 = .ok (.ro 1 2 3) ∧ decode 0x25123000 = .ok (.rom 1 2 3 0) ∧
    decode 0x25123400 = .ok (.rom 1 2 3 4) := by decide

theorem test_decode_prp : decode 0x30120000 = .ok (.pkexp 1 2) ∧ decode 0x31A00000 = .ok (.pclr 10) ∧
    decode 0x32301200 = .ok (.prpe 3 0 1 2) ∧ decode 0x33123400 = .ok (.prpd 1 2 3 4) ∧
    decode 0x34012000 = .ok (.prpea 0 1 2) ∧ decode 0x35123000 = .ok (.prpda 1 2 3) := by decide

theorem test_decode_generator : decode 0x40100000 = .ok (.gnext 1) ∧ decode 0x41000000 = .ok (.gseed 0) ∧
    decode 0x41700000 = .ok (.gseed 7) := by decide

theorem test_decode_objects : decode 0x50012000 = .ok (.pinitb 0 1 2) ∧ decode 0x51112000 = .ok (.pinitl 1 1 2) ∧
    decode 0x51123000 = .ok (.pinitl 1 2 3) ∧ decode 0x52510000 = .ok (.csize 5 1) ∧
    decode 0x53510000 = .ok (.cszl 5 1) ∧ decode 0x54510000 = .ok (.cszr 5 1) ∧
    decode 0x55120000 = .ok (.setup 1 2) ∧ decode 0x56010100 = .ok (.skset 0 1 0 1) ∧
    decode 0x56123400 = .ok (.skset 1 2 3 4) ∧ decode 0x57300000 = .ok (.sclr 3) ∧
    decode 0x58013000 = .ok (.cinit 0 1 3) ∧ decode 0x59114000 = .ok (.cload 1 1 4) ∧
    decode 0x59123000 = .ok (.cload 1 2 3) ∧ decode 0x5A800000 = .ok (.cclr 8) := by decide

theorem test_decode_ore : decode 0x60001000 = .ok (.oreenc 0 0 1) ∧ decode 0x60123000 = .ok (.oreenc 1 2 3) ∧
    decode 0x61201000 = .ok (.orecmp 2 0 1) ∧ decode 0x70123000 = .ok (.obenc 1 2 3) ∧
    decode 0x71201000 = .ok (.obcmp 2 0 1) ∧ decode 0x71123000 = .ok (.obcmp 1 2 3) := by decide

/-- R76, R77, R90: reserved opcodes, and a nonzero must-be-zero field of each format. -/
theorem test_decode_illegal : decode 0x00000001 = .error (.nonzeroMbz 0x00) ∧
    decode 0x01010000 = .error (.nonzeroMbz 0x01) ∧ decode 0x10310000 = .error (.nonzeroMbz 0x10) ∧
    decode 0x06141000 = .error (.nonzeroMbz 0x06) ∧ decode 0x14201100 = .error (.nonzeroMbz 0x14) ∧
    decode 0x15012310 = .error (.nonzeroMbz 0x15) ∧ decode 0x21012341 = .error (.nonzeroMbz 0x21) ∧
    decode 0x08000000 = .error (.unassignedOpcode 0x08) ∧ decode 0x22000000 = .error (.unassignedOpcode 0x22) ∧
    decode 0x5B000000 = .error (.unassignedOpcode 0x5B) ∧
    decode 0xFFFFFFFF = .error (.unassignedOpcode 0xFF) := by decide

/-! ## Stepping and the host -/

/-- A word of the opcode table runs next, from reset. -/
theorem test_step_from_reset : decodeTableWord 32 0x01301234 = some (.li 3 0x1234) ∧
    (stepped (State.reset.withFetchWord 32 0x01301234)).getX 3 = 0x1234 ∧
    (stepped (State.reset.withFetchWord 32 0x01301234)).replies = [.code 0] := by decide

theorem witness_StepRunsTheDecodedCommand : (lab.pushIssue 0x01301234).inbox = .issue 0x01301234 :: [] ∧
    decode 0x01301234 = .ok (.li 3 0x1234) ∧
    exec (.li 3 0x1234) { lab.pushIssue 0x01301234 with inbox := [] } = .next (after (.li 3 0x1234) lab) ∧
    decodeTableWord 32 0x01301234 = some (.li 3 0x1234) ∧
    exec (.li 3 0x1234) lab = .next (after (.li 3 0x1234) lab) :=
  ⟨rfl, by decide, rfl, by decide, rfl⟩

theorem witness_IllegalWordOnlySetsResult : ¬ LegalWord 0x00000001 ∧ ¬ LegalWord 0x08000000 ∧
    (lab.pushIssue 0x00000001).inbox = .issue 0x00000001 :: [] := by
  unfold LegalWord
  decide

theorem test_illegal_word_goes_on :
    (stepped ((lab.pushIssue 0x01301234).pushIssue 0x08000000)).replies = [.code 10] ∧
    (stepped ((lab.pushIssue 0x01301234).pushIssue 0x08000000)).inbox = [.issue 0x01301234] ∧
    (stepped ((lab.pushIssue 0x01301234).pushIssue 0x08000000)).x = lab.x := by decide

/-- The hypotheses of `EngineNeverStops`: no transaction, and an access one byte past M. -/
theorem witness_EngineNeverStops : lab.inbox = [] ∧
    refusal { lab with inbox := [.readMem 1023 2] } = some .hostRangeOutsideMemory ∧
    refusal { lab with inbox := [.writeMem 1024 [0]] } = some .hostRangeOutsideMemory ∧
    refusal { lab with inbox := [.readMem 1024 0] } = none := by decide

/-- Host transactions, the memory ones up to the last byte of M. -/
theorem witness_HostReachesRegistersAndMemory : lab.mem.wf = true ∧
    (stepped { lab with inbox := [.writeX 15 7, .readX 15] }).getX 15 = 7 ∧
    (stepped { lab with inbox := [.writeX 15 7, .readX 15] }).inbox = [.readX 15] ∧
    (stepped { lab.setX 15 7 with inbox := [.readX 15] }).replies = [.scalar 7] ∧
    (stepped { lab with inbox := [.writeB 2 plain] }).getB 2 = plain ∧
    (stepped { lab.setB 2 plain with inbox := [.readB 2] }).replies = [.block plain] ∧
    (stepped { lab with inbox := [.writeMem 1022 [0xAB, 0xCD]] }).mem.bytes 1022 2 = [0xAB, 0xCD] ∧
    (stepped { lab.setMem (lab.mem.write 1023 0xCD) with inbox := [.readMem 1022 2] }).replies =
      [.bytes [0x00, 0xCD]] := by decide

/-- R41 to R43: the codes of entries 0 and 15 of each file, and a register number above 6. -/
theorem test_control_registers :
    (lab.setK 15 { st := .cleared, rk := zeroKey }).controlRegister 1 = 0xC0000000 ∧
    (lab.setP 1 { st := .initialized, rk := zeroPrpKeys }).controlRegister 2 = 0x00000004 ∧
    (lab.setPR 15 (par .block 8 2)).controlRegister 3 = 0x40000000 ∧
    (lab.setS 0 { st := .cleared, par := zeroParams, prf := zeroKey, prp := zeroKey }).controlRegister 4 = 3 ∧
    (lab.setC 15 { st := .populated, par := zeroParams, base := 0 }).controlRegister 5 = 0x80000000 ∧
    (lab.setG { seeded := true, rk := zeroKey, ctr := 0 }).controlRegister 6 = 1 ∧
    (lab.raise .illegal).controlRegister 0 = 10 ∧ (lab.raise .illegal).controlRegister 7 = 0 := by decide

theorem witness_ControlRegistersViewTheState : 6 < 7 ∧
    { lab with inbox := [.readCR 7] }.inbox = .readCR 7 :: [] := ⟨by decide, rfl⟩

/-- R320, R321: registers and keys are gone, M and the host's next transaction stay. -/
theorem witness_ResetLeavesTheListedValues :
    let s : State := { (labK.setX 3 9).setMem (lab.mem.write 5 0xEE) with
      result := 4, inbox := [.reset, .readX 3] }
    (stepped s).getX 3 = 0 ∧ (stepped s).getK 0 = { st := .uninitialized, rk := zeroKey } ∧
      (stepped s).result = 0 ∧ (stepped s).mem.read 5 = 0xEE ∧ (stepped s).inbox = [.readX 3] := by decide

/-- Two engines with different keys, for every transaction but `Issue`. -/
theorem witness_HostCannotTellKeysApart :
    HostSame { labK with inbox := [.readCR 1] }
      { labK.setK 0 { st := .initialized, rk := zeroKey } with inbox := [.readCR 1] } ∧
    (∀ w, HostTx.readCR 1 ≠ .issue w) := by
  refine ⟨⟨by simp [samePart, labK, State.setK], rfl, by decide, by decide, by decide, by decide, by decide,
    rfl⟩, by simp⟩

theorem witness_StepTakesOneTransaction :
    step { lab with inbox := [.readCR 0, .reset] } = .next (stepped { lab with inbox := [.readCR 0, .reset] }) ∧
    (stepped { lab with inbox := [.readCR 0, .reset] }).inbox = [.reset] ∧ ResultLegal lab :=
  ⟨rfl, by decide, by unfold ResultLegal; decide⟩

/-! ## Bytes, memory, the cipher -/

theorem witness_MemoryIsBigEndian : lab.mem.wf = true ∧ 0xABCD < 256 ^ 2 ∧
    (lab.mem.writeBE 1022 2 0xABCD).read 1022 = 0xAB ∧ (lab.mem.writeBE 1022 2 0xABCD).readBE 1022 2 = 0xABCD ∧
    (0 < 256 ^ 0) := by decide

theorem witness_ByteStringsAndIntegers : 65535 < 256 ^ 2 ∧ toBE 65535 2 = [0xFF, 0xFF] ∧ be [] = 0 ∧
    be [0x01, 0x02] = 258 := by decide

theorem witness_KeyScheduleRecurrence : ∀ (r : Fin 11) (j : Fin 4),
    (fun i => keyWord ((keyExpansion keyA).toList.getD (i / 4) 0) (i % 4)) (4 * r + j) =
      keyWord (keyExpansion keyA)[r] j := by decide +kernel

theorem witness_SboxIsAffineOfInverse : (0x53 : Byte) ≠ 0 ∧ gfMul 0x53 0xCA = 1 ∧ sbox 0x53 = 0xED ∧
    sboxAffine 0xCA = 0xED ∧ sbox 0x00 = 0x63 ∧ sbox 0xFF = 0x16 := by decide +kernel

/-- FIPS-197 A.1 and C.1 (95_test_vectors.md section 2). -/
theorem test_key_expansion : (keyExpansion 0x2B7E151628AED2A6ABF7158809CF4F3C)[1] =
      0xA0FAFE1788542CB123A339392A6C7605 ∧
    (keyExpansion 0x2B7E151628AED2A6ABF7158809CF4F3C)[10] = 0xD014F9A8C9EE2589E13F0CC8B6630CA6 := by
  decide +kernel

theorem test_cipher : aes (keyExpansion keyA) plain = 0x69C4E0D86A7B0430D8CDB78070B4C55A := by decide +kernel

theorem witness_PrpRoundTrip : 4 % 2 = 0 ∧ 4 ≤ 64 ∧ 15 < 2 ^ 4 ∧ 0 % 2 = 0 ∧ 0 < 2 ^ 0 ∧ 64 % 2 = 0 ∧
    2 ^ 64 - 1 < 2 ^ 64 := by decide

/-- R242's example: messages 5, 6 and 21 under Params (4, 2). -/
theorem test_basic_encrypt : basicEncrypt (keyExpansion keyA) 4 2 5 = [0x73] ∧
    basicEncrypt (keyExpansion keyA) 4 2 6 = [0x77] ∧ basicEncrypt (keyExpansion keyA) 4 2 21 = [0x73] := by
  decide +kernel

theorem witness_BasicEncryptBlocks : 64 ≤ 64 ∧ 2 ≤ 2 ∧ 128 ≤ 128 ∧ 2 ≤ 128 ∧ 2 ^ 64 - 1 < 2 ^ 64 ∧ 63 < 64 := by
  decide

theorem witness_BlockEncryptLayout : 2 % 2 = 0 ∧ 16 % 2 = 0 ∧ 2 ≤ 2 ∧ 16 ≤ 16 ∧ divUp 2 8 ≤ divUp 1 8 ∧
    divUp 16 8 ≤ divUp 9 8 ∧ 0 < divUp 1 2 ∧ 3 < 2 ^ 2 := by decide

/-- Both clauses of both comparisons: all blocks equal, and a first difference of 1, of more than 1,
and a stored `pix` out of range. -/
theorem witness_CompareDecidesAtFirstDifference :
    basicCompare 4 2 [0x73] [0x73] = 0 ∧ basicCompare 4 2 [0x77] [0x73] = 1 ∧
    basicCompare 4 2 [0x73] [0x77] = -1 ∧ basicCompare 4 2 [0x80] [0x00] = -1 ∧
    (0x73 >>> 4) % 2 ^ 2 = (0x77 >>> 4) % 2 ^ 2 ∧ (0x73 >>> 2) % 2 ^ 2 ≠ (0x77 >>> 2) % 2 ^ 2 ∧
    blockCompare 2 2 (List.replicate 17 0) (List.replicate 17 0) (List.replicate 17 0) = some 0 ∧
    slice (1 :: List.replicate 16 0) 0 16 ≠ slice (List.replicate 17 0) 0 16 ∧
    blockCompare 2 2 (1 :: List.replicate 15 0 ++ [4]) (List.replicate 17 0) (List.replicate 17 0) = none := by
  decide +kernel

theorem witness_BasicOrderIsRevealed : 4 ≤ 64 ∧ 2 ≤ 2 ∧ 2 ≤ 128 ∧
    basicCompare 4 2 (basicEncrypt (keyExpansion keyA) 4 2 5) (basicEncrypt (keyExpansion keyA) 4 2 6) = -1 := by
  decide +kernel

theorem witness_BlockOrderIsRevealed : 64 ≤ 64 ∧ 16 % 2 = 0 ∧ 16 ≤ 16 ∧ divUp 16 8 ≤ divUp 64 8 ∧
    2 % 2 = 0 ∧ 2 ≤ 2 ∧ divUp 2 8 ≤ divUp 1 8 ∧ 5 % 2 ^ 2 = 1 % 2 ^ 2 ∧ keyA ≠ keyB := by decide

/-- 95_test_vectors.md P4, first record of R262's first block: `pix`, key value and vector of chunk 1
under Params (4, 2). -/
theorem test_block_record :
    blockRecord (keyExpansion keyA) (keyExpansion keyB) 0xAE3A71384013479E5A259218E4DF8CBF 2 0 0 1 =
      { key := 0xB9AD2B2E346AC238505D365E9CB7FC56, pix := 3, vec := 0x0C } := by decide +kernel

/-! ## Commands -/

/-- R91 to R95 as their examples have them. -/
theorem test_register_moves : (after (.li 3 0xFFFF) (lab.setX 3 0xFFFFFFFFFFFFFFFF)).getX 3 = 0xFFFF ∧
    (after (.lih 3 0xABCD) (lab.setX 3 0xF000000000001234)).getX 3 = 0x000000001234ABCD ∧
    (after (.mkb 0 1 2) ((lab.setX 1 0x0001020304050607).setX 2 0x08090A0B0C0D0E0F)).getB 0 = keyA ∧
    (after (.xbh 5 0) (lab.setB 0 keyA)).getX 5 = 0x0001020304050607 ∧
    (after (.xbl 6 0) (lab.setB 0 keyA)).getX 6 = 0x08090A0B0C0D0E0F ∧ code .nop lab = 0 := by decide

/-- R96: the last legal address, the first illegal one, no wrap; any alignment. -/
theorem witness_LoadBlock : code (.ldb 1 4) (withX lab 0 0 0 1008) = 0 ∧
    code (.ldb 1 4) (withX lab 0 0 0 1009) = 9 ∧ code (.ldb 1 4) (withX lab 0 0 0 (2 ^ 64 - 1)) = 9 ∧
    (after (.ldb 1 4) (withX (lab.setMem (lab.mem.writeBlock 0x101 plain)) 0 0 0 0x101)).getB 1 = plain := by
  decide +kernel

/-- R97. -/
theorem witness_StoreBlock : lab.mem.wf = true ∧ code (.stb 2 4) (withX lab 0 0 0 1008) = 0 ∧
    code (.stb 2 4) (withX lab 0 0 0 1009) = 9 ∧
    (after (.stb 2 4) (withX (lab.setB 2 0x69C4E0D86A7B0430D8CDB78070B4C55A) 0 0 0 0x200)).mem.bytes 0x1FF 4 =
      [0x00, 0x69, 0xC4, 0xE0] := by decide +kernel

/-- R120: an answer, and a failure. -/
theorem witness_GenerateKey : code (.kgen 3) { lab with entropy := [some keyA] } = 0 ∧
    ((after (.kgen 3) { lab with entropy := [some keyA] }).getK 3).rk[0] = keyA ∧
    code (.kgen 3) { lab with entropy := [none] } = 1 ∧
    (after (.kgen 3) { lab with entropy := [none] }).draws = 1 := by decide +kernel

/-- R121's example; R122's lengths and addresses, the length first. -/
theorem witness_ExpandKey : ((after (.kexp 0 0) (lab.setB 0 keyA)).getK 0).rk[10] =
      0x13111D7FE3944A17F307A78B4D2B30C5 ∧
    code (.kexpm 1 1 2) (withX lab 0x100 16 0 0) = 0 ∧ code (.kexpm 1 1 2) (withX lab 1008 16 0 0) = 0 ∧
    code (.kexpm 1 1 2) (withX lab 1009 16 0 0) = 9 ∧ code (.kexpm 1 1 2) (withX lab 1009 32 0 0) = 8 ∧
    code (.kexpm 1 1 2) (withX lab 0 15 0 0) = 8 ∧ code (.kexpm 1 1 2) (withX lab 0 17 0 0) = 8 := by
  decide +kernel

/-- R124, R166, R215: Uninitialized, Initialized, Cleared. -/
theorem witness_ClearKeys : code (.kclr 0) lab = 3 ∧ code (.kclr 0) labK = 0 ∧
    code (.kclr 0) (after (.kclr 0) labK) = 3 ∧ ((after (.kclr 0) labK).getK 0).rk = zeroKey ∧
    code (.pclr 0) lab = 3 ∧ code (.pclr 0) labP = 0 ∧ code (.pclr 0) (after (.pclr 0) labP) = 3 ∧
    code (.sclr 0) lab = 3 ∧ code (.sclr 0) (labOre (par .block 4 2) .initialized 0 0) = 0 ∧
    code (.sclr 0) (after (.sclr 0) (labOre (par .block 4 2) .initialized 0 0)) = 3 := by decide +kernel

/-- R125 and R141: the examples, in place, and an empty entry. -/
theorem witness_EncryptOneBlock : code (.aese 2 0 1) lab = 3 ∧ code (.prf 2 0 1) lab = 3 ∧
    (after (.aese 1 0 1) (labK.setB 1 plain)).getB 1 = 0x69C4E0D86A7B0430D8CDB78070B4C55A ∧
    (after (.prf 2 0 1) labK).getB 2 = 0xC6A13B37878F5B826F4F8162A1C8D879 := by decide +kernel

/-- R126: every check at its edge (`X[1]` destination, `X[2]` source, `X[3]` count). -/
theorem witness_EncryptManyBlocks : lab.mem.wf = true ∧ code (.aesem 0 1 2 3) lab = 3 ∧
    code (.aesem 0 1 2 3) (withX labK 0 1009 1 0) = 9 ∧ code (.aesem 0 1 2 3) (withX labK 1009 0 1 0) = 9 ∧
    code (.aesem 0 1 2 3) (withX labK 1024 1024 0 0) = 0 ∧ code (.aesem 0 1 2 3) (withX labK 1025 0 0 0) = 9 ∧
    code (.aesem 0 1 2 3) (withX labK 131 100 2 0) = 2 ∧ code (.aesem 0 1 2 3) (withX labK 69 100 2 0) = 2 ∧
    code (.aesem 0 1 2 3) (withX labK 132 100 2 0) = 0 ∧ code (.aesem 0 1 2 3) (withX labK 68 100 2 0) = 0 ∧
    code (.aesem 0 1 2 3) (withX labK 100 100 2 0) = 0 ∧ code (.aesem 0 1 2 3) (withX labK 1008 0 1 0) = 0 := by
  decide +kernel

/-- R126's example. -/
theorem test_aesem : (after (.aesem 0 1 2 3)
      (withX (labK.setMem (lab.mem.writeBlock 0x100 plain)) 0x200 0x100 2 0)).mem.readBE 0x200 32 =
    0x69C4E0D86A7B0430D8CDB78070B4C55AC6A13B37878F5B826F4F8162A1C8D879 := by decide +kernel

/-- The hypotheses of the batch law, in place and disjoint on both sides. -/
theorem witness_BatchEqualsSingleEncryptions : (labK.getK 0).st = .initialized ∧
    (100 + 16 * 2 ≤ labK.memSize ∧ 100 = 100) ∧ 68 + 16 * 2 ≤ 100 ∧ 100 + 16 * 2 ≤ 132 ∧
    (withX labK 132 100 2 0).natX 3 = 2 := by decide +kernel

/-- R142: every check at its edge (`X[1]` output, `X[2]` its length, `X[3]` input, `X[4]` its length). -/
theorem witness_PrfOnBuffers : code (.prfm 0 1 2 3 4) lab = 3 ∧
    code (.prfm 0 1 2 3 4) (withX labK 0x200 16 0x100 15) = 8 ∧
    code (.prfm 0 1 2 3 4) (withX labK 0x200 17 0x100 16) = 8 ∧
    code (.prfm 0 1 2 3 4) (withX labK 1009 16 0x100 16) = 9 ∧
    code (.prfm 0 1 2 3 4) (withX labK 1008 16 1009 16) = 9 ∧
    code (.prfm 0 1 2 3 4) (withX labK 115 16 100 16) = 2 ∧ code (.prfm 0 1 2 3 4) (withX labK 85 16 100 16) = 2 ∧
    code (.prfm 0 1 2 3 4) (withX labK 116 16 100 16) = 0 ∧ code (.prfm 0 1 2 3 4) (withX labK 84 16 100 16) = 0 ∧
    (after (.prfm 0 1 2 3 4) (withX labK 1008 16 1008 16)).mem.readBlock 1008 =
      0xC6A13B37878F5B826F4F8162A1C8D879 := by decide +kernel

/-- R145: both orders of the arguments. -/
theorem test_random_oracle : (after (.ro 7 1 0) ((lab.setB 1 plain).setB 0 keyA)).getX 7 = 0 ∧
    (after (.ro 7 0 1) ((lab.setB 1 plain).setB 0 keyA)).getX 7 = 1 := by decide +kernel

/-- R146: every check at its edge (`X[1]` output, `X[2]` keys, `X[3]` count), and its example. -/
theorem witness_RandomOracleBytes : code (.rom 1 2 3 0) (withX lab 0 1009 1 0) = 9 ∧
    code (.rom 1 2 3 0) (withX lab 1024 0 1 0) = 9 ∧ code (.rom 1 2 3 0) (withX lab 1024 1024 0 0) = 0 ∧
    code (.rom 1 2 3 0) (withX lab 131 100 2 0) = 2 ∧ code (.rom 1 2 3 0) (withX lab 132 100 2 0) = 0 ∧
    code (.rom 1 2 3 0) (withX lab 99 100 2 0) = 2 ∧ code (.rom 1 2 3 0) (withX lab 98 100 2 0) = 0 ∧
    code (.rom 1 2 3 0) (withX lab 100 100 1 0) = 2 := by decide +kernel

theorem test_rom : (after (.rom 1 2 3 0) (withX ((lab.setB 0 keyA).setMem
      (((lab.mem.writeBlock 0x110 1).writeBlock 0x120 2).writeBlock 0x130 3)) 0x200 0x100 4 0)).mem.bytes
    0x200 4 = [1, 0, 1, 0] := by decide +kernel

/-- R165's example. -/
theorem witness_ExpandPrpKeys : code (.pkexp 0 0) lab = 3 ∧
    ((after (.pkexp 0 0) labK).getP 0).rk[0][0] = 0xC6A13B37878F5B826F4F8162A1C8D879 ∧
    ((after (.pkexp 0 0) labK).getP 0).rk[2][10] = 0x7D1FC390BBC06FBAEA2B4A0C79EC670C := by decide +kernel

/-- R167, R168, R173: values, and every check at its edge (`X[1]` source, `X[2]` width). -/
theorem witness_PrpOnOneValue : code (.prpe 3 0 1 2) lab = 3 ∧ code (.prpd 3 0 1 2) lab = 3 ∧
    code (.prpe 3 0 1 2) (withX labP 6 5 0 0) = 2 ∧ code (.prpe 3 0 1 2) (withX labP 6 66 0 0) = 2 ∧
    code (.prpe 3 0 1 2) (withX labP 16 4 0 0) = 2 ∧ code (.prpd 3 0 1 2) (withX labP 1 0 0 0) = 2 ∧
    code (.prpe 3 0 1 2) (withX labP 0 0 0 0) = 0 ∧ code (.prpe 3 0 1 2) (withX labP 15 4 0 0) = 0 ∧
    code (.prpe 3 0 1 2) (withX labP (2 ^ 64 - 1) 64 0 0) = 0 ∧
    code (.prpd 3 0 1 2) (withX labP (2 ^ 63) 64 0 0) = 0 ∧
    (after (.prpe 3 0 1 2) (withX labP 6 4 0 0)).getX 3 = 2 ∧
    (after (.prpd 3 0 1 2) (withX labP 2 4 0 0)).getX 3 = 6 := by decide +kernel

theorem test_prp_wide : (after (.prpe 3 0 1 2) (withX labP 0 64 0 0)).getX 3 = 0x8E0E45B49FFFC527 ∧
    (after (.prpe 3 0 1 2) (withX labP 0xDEADBEEF 32 0 0)).getX 3 = 0x6A4088E3 := by decide +kernel

/-- R169, R170: every check at its edge (`X[1]` table, `X[2]` width), and the one-entry table. -/
theorem witness_PrpTables : code (.prpea 0 1 2) lab = 3 ∧ code (.prpda 0 1 2) lab = 3 ∧
    code (.prpea 0 1 2) (withX labP 0 5 0 0) = 2 ∧ code (.prpda 0 1 2) (withX labP 0 18 0 0) = 2 ∧
    code (.prpea 0 1 2) (withX labP 1022 0 0 0) = 0 ∧ code (.prpea 0 1 2) (withX labP 1023 0 0 0) = 9 ∧
    code (.prpda 0 1 2) (withX labP 0 16 0 0) = 9 ∧ code (.prpda 0 1 2) (withX labP 1016 2 0 0) = 0 := by
  decide +kernel

/-- The tables of R262's first permutation: 0, 3, 2, 1, and the same inverse. -/
theorem test_prp_tables :
    let key := prpKeyExpand (keyExpansion 0xEDA330F90EECD16C003E5FB09BCFF358)
    let s := withX (lab.setP 0 { st := .initialized, rk := key }) 64 2 0 0
    (after (.prpea 0 1 2) s).mem.bytes 64 8 = [0, 0, 0, 3, 0, 2, 0, 1] := by decide +kernel

/-- R191, R192: seeded; unseeded with and without an answer; two blocks in a row (R192's example). -/
theorem witness_NextNonce :
    (after (.gnext 1) (after (.gseed 0) (lab.setB 0 keyG))).getB 1 = 0xAE3A71384013479E5A259218E4DF8CBF ∧
    (after (.gnext 1) (after (.gnext 1) (after (.gseed 0) (lab.setB 0 keyG)))).getB 1 =
      0x55CB198376F6164A20D558A74CB11EA0 ∧
    (after (.gnext 1) (after (.gseed 0) (lab.setB 0 keyG))).g.ctr = 1 ∧
    code (.gnext 1) { lab with entropy := [none, some keyG] } = 1 ∧
    (after (.gnext 1) (after (.gnext 1) { lab with entropy := [none, some keyG] })).getB 1 =
      0xAE3A71384013479E5A259218E4DF8CBF ∧
    code (.gnext 1) { lab with entropy := [some keyG] } = 0 := by decide +kernel

theorem test_gseed : (after (.gseed 0) (lab.setB 0 keyG)).controlRegister 6 = 1 ∧
    (after (.gseed 0) (lab.setB 0 keyG)).draws = 0 := by decide

/-- R201, R202: every bound at its edge (`X[1]` nbits, `X[2]` the block parameter). -/
theorem witness_InitParams : code (.pinitb 0 1 2) (withX lab 31 1 0 0) = 2 ∧
    code (.pinitb 0 1 2) (withX lab 31 2 0 0) = 0 ∧ code (.pinitb 0 1 2) (withX lab 0 128 0 0) = 0 ∧
    code (.pinitb 0 1 2) (withX lab 31 129 0 0) = 2 ∧ code (.pinitb 0 1 2) (withX lab (2 ^ 32) 5 0 0) = 2 ∧
    code (.pinitb 0 1 2) (withX lab (2 ^ 32 - 1) 5 0 0) = 0 ∧ code (.pinitb 0 1 2) (withX lab 1 (2 ^ 32) 0 0) = 2 ∧
    (after (.pinitb 0 1 2) (withX lab 31 5 0 0)).getPR 0 = par .basic 31 5 ∧
    code (.pinitl 1 1 2) (withX lab 32 0 0 0) = 2 ∧ code (.pinitl 1 1 2) (withX lab 1 1 0 0) = 0 ∧
    code (.pinitl 1 1 2) (withX lab 9 16 0 0) = 0 ∧ code (.pinitl 1 1 2) (withX lab 32 17 0 0) = 2 ∧
    code (.pinitl 1 1 2) (withX lab 8 9 0 0) = 2 ∧ code (.pinitl 1 1 2) (withX lab 0 1 0 0) = 2 ∧
    (after (.pinitl 1 1 2) (withX lab 32 4 0 0)).getPR 1 = par .block 32 4 := by decide +kernel

/-- R203 to R206: BASIC (31, 5), BLOCK (32, 4) and (64, 16), uninitialised Params. -/
theorem witness_CiphertextSizes_bounds : ParamsBounds (lab.setPR 1 (par .block 32 4)) := by
  unfold ParamsBounds; refine ⟨?_, ?_, ?_⟩ <;>
  decide +kernel

theorem witness_CiphertextSizes :
    code (.csize 5 1) lab = 2 ∧ code (.cszl 5 1) lab = 2 ∧ code (.cszr 5 1) lab = 2 ∧
    (after (.csize 5 1) (lab.setPR 1 (par .basic 31 5))).getX 5 = 20 ∧
    code (.cszl 5 1) (lab.setPR 1 (par .basic 31 5)) = 2 ∧ code (.cszr 5 1) (lab.setPR 1 (par .basic 31 5)) = 2 ∧
    (after (.csize 5 1) (lab.setPR 1 (par .block 32 4))).getX 5 = 192 ∧
    (after (.cszl 5 1) (lab.setPR 1 (par .block 32 4))).getX 5 = 160 ∧
    (after (.cszr 5 1) (lab.setPR 1 (par .block 32 4))).getX 5 = 32 ∧
    (after (.csize 5 1) (lab.setPR 1 (par .block 64 16))).getX 5 = 32880 := by
  decide +kernel

/-- R210: Params, first and second request. -/
theorem witness_SetUpSecretKey : code (.setup 0 1) lab = 2 ∧
    code (.setup 0 1) { lab.setPR 1 (par .basic 4 2) with entropy := [none] } = 1 ∧
    code (.setup 0 1) { lab.setPR 1 (par .basic 4 2) with entropy := [some keyA] } = 0 ∧
    code (.setup 0 1) { lab.setPR 1 (par .block 32 4) with entropy := [some keyA, none] } = 1 ∧
    (after (.setup 0 1) { lab.setPR 1 (par .block 32 4) with entropy := [some keyA, none] }).draws = 2 ∧
    ((after (.setup 0 1) { lab.setPR 1 (par .block 32 4) with entropy := [some keyA, some keyB] }).getS 0) =
      { st := .initialized, par := par .block 32 4, prf := keyExpansion keyA, prp := keyExpansion keyB } := by
  decide +kernel

/-- R212: uninitialised, BLOCK and BASIC Params. -/
theorem witness_ImportSecretKey : code (.skset 0 1 0 1) lab = 2 ∧
    ((after (.skset 0 1 0 1) (((lab.setPR 1 (par .block 32 4)).setB 0 keyA).setB 1 keyB)).getS 0).prp[0] = keyB ∧
    ((after (.skset 0 1 0 1) (((lab.setPR 1 (par .basic 4 2)).setB 0 keyA).setB 1 keyB)).getS 0).prp = zeroKey ∧
    ((after (.skset 0 1 0 1) (((lab.setPR 1 (par .basic 4 2)).setB 0 keyA).setB 1 keyB)).getS 0).prf[0] = keyA := by
  decide +kernel

/-- R216, R217: the last base that fits, the first that does not, an empty ciphertext at MEM_SIZE. -/
theorem witness_BindCiphertext : code (.cinit 0 1 1) lab = 2 ∧ code (.cload 0 1 1) lab = 2 ∧
    code (.cinit 0 1 1) (withX (lab.setPR 1 (par .block 32 4)) 832 0 0 0) = 0 ∧
    code (.cinit 0 1 1) (withX (lab.setPR 1 (par .block 32 4)) 833 0 0 0) = 7 ∧
    code (.cload 0 1 1) (withX (lab.setPR 1 (par .block 32 4)) 833 0 0 0) = 7 ∧
    code (.cload 0 1 1) (withX (lab.setPR 1 (par .basic 0 2)) 1024 0 0 0) = 0 ∧
    (after (.cload 0 1 1) (withX (lab.setPR 1 (par .block 32 4)) 832 0 0 0)).getC 0 =
      { st := .populated, par := par .block 32 4, base := 832 } := by decide +kernel

/-- R218: a slot without a ciphertext, and the zeroed range. -/
theorem witness_ClearCiphertext : lab.mem.wf = true ∧ code (.cclr 0) lab = 4 ∧
    (after (.cclr 0) (labTwo (par .basic 4 2) (par .basic 4 2) [0x73] [0x77])).mem.bytes 0x100 1 = [0] ∧
    (after (.cclr 0) (labTwo (par .basic 4 2) (par .basic 4 2) [0x73] [0x77])).mem.bytes 0x200 1 = [0x77] ∧
    code (.cclr 0) (labOre (par .block 4 2) .initialized 0 0) = 0 := by decide +kernel

/-- R242: the codes in their order, and the example. -/
theorem witness_BasicEncryptCommand : code (.oreenc 0 0 1) lab = 3 ∧
    code (.oreenc 0 0 1) (labOre (par .basic 4 2) .uninitialized 0x100 5) = 4 ∧
    code (.oreenc 0 0 1) (labOre (par .basic 4 2) .cleared 0x100 5) = 4 ∧
    code (.oreenc 1 0 1) ((labOre (par .basic 4 2) .initialized 0x100 5).setC 1
      { st := .initialized, par := par .basic 4 3, base := 0 }) = 5 ∧
    code (.oreenc 0 0 1) (labOre (par .block 4 2) .initialized 0x100 5) = 2 ∧
    code (.oreenc 0 0 1) (labOre (par .basic 65 2) .initialized 0x100 5) = 6 ∧
    code (.oreenc 0 0 1) (labOre (par .basic 64 2) .populated 0x100 5) = 0 ∧
    (after (.oreenc 0 0 1) (labOre (par .basic 4 2) .initialized 0x100 5)).mem.read 0x100 = 0x73 ∧
    ((after (.oreenc 0 0 1) (labOre (par .basic 4 2) .initialized 0x100 5)).getC 0).st = .populated := by
  decide +kernel

/-- R244: the codes in their order, and the example's three comparisons. -/
theorem witness_BasicCompareCommand : code (.orecmp 2 0 1) lab = 4 ∧
    code (.orecmp 2 0 1) (labTwo (par .basic 4 2) (par .basic 4 3) [0x73] [0x77]) = 5 ∧
    code (.orecmp 2 0 1) (labTwo (par .block 4 2) (par .block 4 2) [0x73] [0x77]) = 2 ∧
    (after (.orecmp 2 0 1) (labTwo (par .basic 4 2) (par .basic 4 2) [0x73] [0x77])).getX 2 =
      0xFFFFFFFFFFFFFFFF ∧
    (after (.orecmp 2 1 0) (labTwo (par .basic 4 2) (par .basic 4 2) [0x73] [0x77])).getX 2 = 1 ∧
    (after (.orecmp 2 0 0) (labTwo (par .basic 4 2) (par .basic 4 2) [0x73] [0x77])).getX 2 = 0 := by
  decide +kernel

/-- R262: the codes in their order; `nbits` = 64 and 65; the oracle failing and answering. -/
theorem witness_BlockEncryptCommand_bounds :
    ParamsBounds (labOre (par .block 4 2) .initialized 0x100 6) := by
  unfold ParamsBounds; refine ⟨?_, ?_, ?_⟩ <;>
  decide +kernel

theorem witness_BlockEncryptCommand : lab.mem.wf = true ∧ code (.obenc 0 0 1) lab = 3 ∧
    code (.obenc 0 0 1) (labOre (par .block 4 2) .cleared 0x100 6) = 4 ∧
    code (.obenc 1 0 1) ((labOre (par .block 4 2) .initialized 0x100 6).setC 1
      { st := .populated, par := par .block 4 4, base := 0 }) = 5 ∧
    code (.obenc 0 0 1) (labOre (par .basic 4 2) .initialized 0x100 6) = 2 ∧
    code (.obenc 0 0 1) (labOre (par .block 4 3) .initialized 0x100 6) = 2 ∧
    code (.obenc 0 0 1) (labOre (par .block 65 2) .initialized 0x100 6) = 6 ∧
    code (.obenc 0 0 1) { labOre (par .block 64 2) .initialized 0x100 6 with entropy := [none] } = 1 ∧
    code (.obenc 0 0 1) { labOre (par .block 64 2) .populated 0x100 6 with entropy := [some keyG] } = 0 ∧
    (after (.obenc 0 0 1)
      { labOre (par .block 4 2) .initialized 0x100 6 with entropy := [some keyG] }).g.ctr = 1 := by
  decide +kernel

/-- R262's example: the whole ciphertext of message 6. -/
theorem test_obenc : ((after (.obenc 0 0 1) ((labOre (par .block 4 2) .initialized 0x100 6).setG
      { seeded := true, rk := keyExpansion keyG, ctr := 0 })).mem.readBE 0x100 52) =
    0xB9AD2B2E346AC238505D365E9CB7FC5603A5E636EE73D71C6CA06CE215A582694601AE3A71384013479E5A259218E4DF8CBF0C0A := by
  decide +kernel

/-- R264: the codes in their order, a stored `pix` = 4 = `2^bl`, and the example's two ciphertexts
(messages 6 and 9) compared in every way. -/
theorem witness_BlockCompareCommand :
    let a := toBE 0xB9AD2B2E346AC238505D365E9CB7FC5603A5E636EE73D71C6CA06CE215A582694601AE3A71384013479E5A259218E4DF8CBF0C0A 52
    let b := toBE 0x49D68753999BA68CE3897A686081B09D02BA4D0A72B21883751787F9228A7C9D2A0355CB198376F6164A20D558A74CB11EA00408 52
    let s := labTwo (par .block 4 2) (par .block 4 2) a b
    code (.obcmp 2 0 1) lab = 4 ∧
    code (.obcmp 2 0 1) (labTwo (par .block 4 2) (par .block 6 2) a b) = 5 ∧
    code (.obcmp 2 0 1) (labTwo (par .basic 4 2) (par .basic 4 2) a b) = 2 ∧
    code (.obcmp 2 0 1) (s.setMem (s.mem.write 0x110 4)) = 2 ∧
    (after (.obcmp 2 0 1) s).getX 2 = 0xFFFFFFFFFFFFFFFF ∧ (after (.obcmp 2 1 0) s).getX 2 = 1 ∧
    (after (.obcmp 2 0 0) s).getX 2 = 0 := by decide +kernel

/-! ## Statements about all commands, and the invariants -/

theorem witness_ErrorsHaveNoSideEffect : exec (.kclr 0) lab = .next (after (.kclr 0) lab) ∧
    (after (.kclr 0) lab).result ≠ 0 ∧ (after (.kclr 0) lab).result ≠ 1 ∧
    exec (.kgen 0) { lab with entropy := [none] } = .next (after (.kgen 0) { lab with entropy := [none] }) ∧
    (after (.kgen 0) { lab with entropy := [none] }).result = 1 := ⟨rfl, by decide, by decide, rfl, by decide⟩

theorem witness_ResultCodesOfEachCommand : exec .nop lab = .next (after .nop lab) ∧
    (after .nop lab).result ∈ resultCodes .nop := ⟨rfl, by decide⟩

theorem witness_CommandsWriteOnlyTheirState : exec (.li 3 7) lab = .next (after (.li 3 7) lab) ∧
    (∀ cd prs xaddr, Instr.oreenc 0 0 1 ≠ .cinit cd prs xaddr ∧ Instr.oreenc 0 0 1 ≠ .cload cd prs xaddr ∧
      Instr.oreenc 0 0 1 ≠ .cclr cd) ∧
    exec (.oreenc 0 0 1) (labOre (par .basic 4 2) .initialized 0x100 5) =
      .next (after (.oreenc 0 0 1) (labOre (par .basic 4 2) .initialized 0x100 5)) :=
  ⟨rfl, by simp, rfl⟩

theorem witness_PseudoInstructionsLoadConstants : (1 : XReg) ≠ 2 ∧
    ((runCommands (expandLi64 5 0xFFFF0203040506FF) lab).map fun t => t.getX 5) = some 0xFFFF0203040506FF ∧
    ((runCommands (expandLb128 0 1 2 keyA) lab).map fun t => t.getB 0) = some keyA := by decide

/-- A machine with material in every file that meets the four invariants, and a step from it. -/
def labFull : State :=
  { ((labOre (par .block 4 2) .populated 972 6).setK 0 { st := .initialized, rk := keyExpansion keyA }).setP 3
      { st := .initialized, rk := prpKeyExpand (keyExpansion keyA) } with
    inbox := [.issue 0x13000000] }

/-- The least engine, its last byte listed. -/
theorem witness_ResetMeetsTheInvariants :
    let m : Memory := { cells := [(15, 0x01)] }
    let size : Config.MemSize := ⟨16, by decide⟩
    m.wf = true ∧ (∀ cell ∈ m.cells, cell.1 < size.val) ∧ (State.powerOn m size).mem.read 15 = 0x01 := by
  decide

theorem witness_invariants_zeroised : Zeroised labFull := by
  unfold Zeroised
  decide +kernel

theorem witness_invariants_params : ParamsBounds labFull := by
  unfold ParamsBounds; refine ⟨?_, ?_, ?_⟩ <;>
  decide +kernel

theorem witness_invariants_buffers : BuffersInBounds labFull := by
  unfold BuffersInBounds
  decide +kernel

theorem witness_invariants_schedules : KeysAreSchedules labFull := by
  unfold KeysAreSchedules
  decide +kernel

/-- The step of the four: KCLR of `K[0]`. -/
theorem witness_invariants_step : step labFull = .next (stepped labFull) ∧
    ((stepped labFull).getK 0).st = .cleared ∧ (stepped labFull).replies = [.code 0] :=
  ⟨rfl, by decide +kernel, by decide +kernel⟩

end Sys2Proof.Tests
end

/-! PROOF. The buffer memory stays canonical inside `[0, MEM_SIZE)`, hosted ciphertexts stay inside M;
the host's register and memory transactions; byte strings and their integers. -/

namespace Sys2Proof.Machine

/-! ### Byte strings and integers (00_scope.md R14) -/

/-- `BE` as the weighted sum of its bytes. -/
theorem be_eq_sum (l : List Byte) :
    be l = ∑ k : Fin l.length, (l[k]).toNat * 256 ^ (l.length - 1 - k) := by
  induction l with
  | nil => rfl
  | cons c rest ih =>
    have weight (k : Fin rest.length) : rest.length - (k + 1) = rest.length - 1 - k := by omega
    simp [be_cons, ih, Fin.sum_univ_succ, weight]

/-- `toBE` keeps the low `n` bytes of the number. -/
theorem be_toBE (v n : Nat) : be (toBE v n) = v % 256 ^ n := by
  induction n with
  | zero => simp [toBE, be, Nat.mod_one]
  | succ n ih =>
    rw [toBE_succ, be_cons, ih, toBE_length, Nat.mod_pow_succ, BitVec.toNat_ofNat]
    ring

/-! ### Memory inside its size -/

/-- The memory is canonical and lists no address at or above `n`: the memory part of
`BuffersInBounds`. -/
def Memory.Inside (m : Memory) (n : Nat) : Prop := m.wf = true ∧ ∀ cell ∈ m.cells, cell.1 < n

/-- A write lists no new address but its own. -/
theorem mem_writeCells {cells : List Host.Cell} {a : Nat} {v : Byte} {cell : Host.Cell}
    (h : cell ∈ writeCells cells a v) : cell ∈ cells ∨ cell = (a, v) := by
  induction cells with
  | nil =>
    simp only [writeCells] at h
    split at h <;> simp_all
  | cons first rest ih =>
    obtain ⟨c, u⟩ := first
    simp only [writeCells] at h
    split_ifs at h <;> simp only [List.mem_cons] at h ⊢ <;> tauto

theorem Memory.Inside.write {m : Memory} {n a : Nat} (h : m.Inside n) (v : Byte) (ha : a < n) :
    (m.write a v).Inside n := by
  obtain ⟨hwf, hcells⟩ := h
  refine ⟨wf_write hwf a v, fun cell hcell => ?_⟩
  rcases mem_writeCells hcell with hold | rfl
  · exact hcells cell hold
  · exact ha

theorem Memory.Inside.writeBytes {m : Memory} {n a : Nat} {bytes : List Byte} (h : m.Inside n)
    (ha : a + bytes.length ≤ n) : (m.writeBytes a bytes).Inside n := by
  induction bytes generalizing m a with
  | nil => exact h
  | cons v rest ih =>
    simp only [List.length_cons] at ha
    exact ih (h.write v (by omega)) (by omega)

theorem Memory.Inside.writeBE {m : Memory} {n a k : Nat} (h : m.Inside n) (v : Nat) (ha : a + k ≤ n) :
    (m.writeBE a k v).Inside n :=
  h.writeBytes (by simpa using ha)

theorem Memory.Inside.writeBlock {m : Memory} {n a : Nat} (h : m.Inside n) (v : Block)
    (ha : a + 16 ≤ n) : (m.writeBlock a v).Inside n :=
  h.writeBE _ ha

theorem Memory.Inside.encryptBlocks {m : Memory} {size dst n : Nat} (h : m.Inside size)
    (rk : ExpandedKey) (src : Nat) (hd : dst + 16 * n ≤ size) :
    (encryptBlocks rk dst src n m).Inside size :=
  forUpTo_keeps (P := (Memory.Inside · size)) (fun _ _ _ hm => hm.writeBlock _ (by omega)) h

theorem Memory.Inside.oracleBytes {m : Memory} {size dst n : Nat} (h : m.Inside size)
    (rk : ExpandedKey) (src : Nat) (hd : dst + n ≤ size) :
    (oracleBytes rk dst src n m).Inside size :=
  forUpTo_keeps (P := (Memory.Inside · size)) (fun _ _ _ hm => hm.write _ (by omega)) h

theorem Memory.Inside.writeTable {m : Memory} {size dst n : Nat} (h : m.Inside size) (f : Nat → Nat)
    (hd : dst + 2 * n ≤ size) : (writeTable f dst n m).Inside size :=
  forUpTo_keeps (P := (Memory.Inside · size)) (fun _ _ _ hm => hm.writeBE _ (by omega)) h

/-! ### Ciphertexts are as long as R203 says -/

@[simp] theorem basicEncrypt_length (prf : ExpandedKey) (nbits obl msg : Nat) :
    (basicEncrypt prf nbits obl msg).length = basicLen nbits obl := toBE_length _ _

@[simp] theorem blockRecords_length (prf prp : ExpandedKey) (nonce : Block) (bl nb m left pre : Nat) :
    (blockRecords prf prp nonce bl nb m left pre).length = left := by
  induction left generalizing pre with
  | zero => rfl
  | succ left ih => simp [blockRecords, ih]

/-- A record fills its width, for `pix` fits its field under the third check of R202. -/
theorem leftRecordBytes_length {nbits bl : Nat} (h : divUp bl 8 ≤ divUp nbits 8) (r : OreRecord) :
    (leftRecordBytes nbits bl r).length = recordWidth nbits := by
  simp only [leftRecordBytes, recordWidth, List.length_append, toBE_length, List.length_replicate]
  omega

theorem blockEncrypt_left_length {nbits bl : Nat} (h : divUp bl 8 ≤ divUp nbits 8)
    (prf prp : ExpandedKey) (msg : Nat) (nonce : Block) :
    (blockEncrypt prf prp nbits bl msg nonce).1.length = leftLen nbits bl := by
  simp [blockEncrypt, List.length_flatMap, leftRecordBytes_length h, leftLen]

theorem blockEncrypt_right_length (prf prp : ExpandedKey) (nbits bl msg : Nat) (nonce : Block) :
    (blockEncrypt prf prp nbits bl msg nonce).2.length = rightLen nbits bl := by
  simp [blockEncrypt, List.length_flatMap, rightLen]

theorem totalLen_of_basic {p : Params} (h : p.scheme = .basic) :
    totalLen p = basicLen p.nbits.toNat p.bp.toNat := by simp [totalLen, h]

theorem totalLen_of_block {p : Params} (h : p.scheme = .block) :
    totalLen p = leftLen p.nbits.toNat p.bp.toNat + rightLen p.nbits.toNat p.bp.toNat := by
  simp [totalLen, h]

/-! ### The invariant and the updates of a state -/

/-- The descriptor hosts no ciphertext beyond `n`: the descriptor part of `BuffersInBounds`. -/
def Ciphertext.Inside (c : Ciphertext) (n : Nat) : Prop :=
  ctUsable c.st → c.base.toNat + totalLen c.par ≤ n

theorem buffersInBounds_iff (s : State) :
    BuffersInBounds s ↔ Config.memSizeMin ≤ s.memSize ∧ s.mem.Inside s.memSize ∧
      ∀ i, (s.getC i).Inside s.memSize := by
  simp [BuffersInBounds, Memory.Inside, Ciphertext.Inside, and_assoc]

/-- The parts of a state that `BuffersInBounds` reads are the same. -/
structure SameBuffers (s t : State) : Prop where
  mem : t.mem = s.mem
  memSize : t.memSize = s.memSize
  ct : t.ct = s.ct

section Updates

variable {s t : State}

theorem BuffersInBounds.mem_inside (h : BuffersInBounds s) : s.mem.Inside s.memSize := by
  obtain ⟨-, hmem, -⟩ := (buffersInBounds_iff s).1 h
  exact hmem

theorem BuffersInBounds.getC_inside (h : BuffersInBounds s) (i : CReg) : (s.getC i).Inside s.memSize := by
  obtain ⟨-, -, hct⟩ := (buffersInBounds_iff s).1 h
  exact hct i

theorem BuffersInBounds.of_same (h : BuffersInBounds s) (same : SameBuffers s t) :
    BuffersInBounds t := by
  obtain ⟨hmem, hsize, hct⟩ := same
  simpa only [BuffersInBounds, State.getC, hmem, hsize, hct] using h

theorem BuffersInBounds.setMem {m : Memory} (h : BuffersInBounds s) (hm : m.Inside s.memSize) :
    BuffersInBounds (s.setMem m) := by
  obtain ⟨hsize, -, hct⟩ := (buffersInBounds_iff s).1 h
  exact (buffersInBounds_iff _).2 ⟨hsize, hm, hct⟩

theorem BuffersInBounds.setC {c : Ciphertext} (h : BuffersInBounds s) (i : CReg)
    (hc : c.Inside s.memSize) : BuffersInBounds (s.setC i c) := by
  obtain ⟨hsize, hmem, hct⟩ := (buffersInBounds_iff s).1 h
  refine (buffersInBounds_iff _).2 ⟨hsize, hmem, fun j => ?_⟩
  by_cases hj : j = i
  · subst hj
    simpa using hc
  · simpa [State.setC_getC_ne s i c j hj] using hct j

theorem BuffersInBounds.raise (h : BuffersInBounds s) (c : ResultCode) : BuffersInBounds (s.raise c) :=
  h.of_same ⟨rfl, rfl, rfl⟩

theorem BuffersInBounds.done (h : BuffersInBounds s) : BuffersInBounds s.done :=
  h.of_same ⟨rfl, rfl, rfl⟩

theorem BuffersInBounds.reply (h : BuffersInBounds s) (r : HostReply) : BuffersInBounds (s.reply r) :=
  h.of_same ⟨rfl, rfl, rfl⟩

end Updates


/-! ### Commands that write neither M nor C -/

theorem genNext_sameBuffers (s : State) : SameBuffers s s.genNext.2 := by
  rw [State.genNext]
  repeat' split
  all_goals exact ⟨rfl, rfl, rfl⟩

theorem prpSingle_sameBuffers (s : State) (f : PrpKeys → Nat → Nat → Nat) (xd : XReg) (ps : PReg)
    (xs xn : XReg) : SameBuffers s (s.prpSingle f xd ps xs xn) := by
  simp only [State.prpSingle]
  split_ifs <;> exact ⟨rfl, rfl, rfl⟩

theorem blockSize_sameBuffers (s : State) (len : Nat → Nat → Nat) (xd : XReg) (prs : PrReg) :
    SameBuffers s (s.blockSize len xd prs) := by
  rw [State.blockSize]
  split_ifs <;> exact ⟨rfl, rfl, rfl⟩

/-- A frame for the buffers: a command that may write neither M nor a descriptor (10_state.md R45)
leaves the memory, its size and the descriptors as they are. -/
theorem exec_sameBuffers {i : Instr} {s t : State} (hmem : .mem ∉ writableParts i)
    (hct : .ct ∉ writableParts i) (h : exec i s = .next t) : SameBuffers s t := by
  cases i
  case stb | aesem | prfm | rom | prpea | prpda | cclr | oreenc | obenc =>
    exact absurd (by simp [writableParts]) hmem
  case cinit | cload => exact absurd (by simp [writableParts]) hct
  -- straight-line commands
  case nop | li | lih | mkb | xbh | xbl | kexp | ro | gseed =>
    obtain rfl := Host.Outcome.next.inj h
    exact ⟨rfl, rfl, rfl⟩
  -- a chain of checks, each ending in an error code or a write to another file
  case ldb | kexpm | kclr | aese | prf | pkexp | pclr | csize | skset | sclr =>
    obtain rfl := Host.Outcome.next.inj h
    split_ifs <;> exact ⟨rfl, rfl, rfl⟩
  case pinitb | pinitl | orecmp =>
    obtain rfl := Host.Outcome.next.inj h
    dsimp only
    split_ifs <;> exact ⟨rfl, rfl, rfl⟩
  case prpe | prpd =>
    obtain rfl := Host.Outcome.next.inj h
    exact prpSingle_sameBuffers ..
  case cszl | cszr =>
    obtain rfl := Host.Outcome.next.inj h
    exact blockSize_sameBuffers ..
  -- commands that also turn on an answer of the oracle or on a comparison
  case kgen | setup =>
    obtain rfl := Host.Outcome.next.inj h
    repeat' split
    all_goals exact ⟨rfl, rfl, rfl⟩
  case obcmp =>
    obtain rfl := Host.Outcome.next.inj h
    dsimp only
    repeat' split
    all_goals exact ⟨rfl, rfl, rfl⟩
  case gnext =>
    obtain rfl := Host.Outcome.next.inj h
    have same := genNext_sameBuffers s
    split
    all_goals
      rename_i heq
      rw [heq] at same
      exact ⟨same.mem, same.memSize, same.ct⟩

/-! ### Commands that write M or C -/

section Writers

variable {s t : State}

theorem BuffersInBounds.store {m : Memory} (h : BuffersInBounds s) (hm : m.Inside s.memSize) :
    BuffersInBounds (s.setMem m).done :=
  (h.setMem hm).done

theorem BuffersInBounds.of_execStb (h : BuffersInBounds s) (bs : BReg) (xa : XReg)
    (hs : execStb bs xa s = .next t) : BuffersInBounds t := by
  obtain rfl := Host.Outcome.next.inj hs
  split
  · exact h.raise _
  · next hr => exact h.store (h.mem_inside.writeBlock _ (not_not.1 hr))

theorem BuffersInBounds.of_execAesem (h : BuffersInBounds s) (ks : KReg) (xdst xsrc xn : XReg)
    (hs : execAesem ks xdst xsrc xn s = .next t) : BuffersInBounds t := by
  obtain rfl := Host.Outcome.next.inj hs
  dsimp only
  split_ifs with _ hr
  iterate 3 exact h.raise _
  exact h.store (h.mem_inside.encryptBlocks _ _ (not_not.1 (not_or.1 hr).2))

theorem BuffersInBounds.of_execPrfm (h : BuffersInBounds s) (ks : KReg) (xdst xdlen xsrc xslen : XReg)
    (hs : execPrfm ks xdst xdlen xsrc xslen s = .next t) : BuffersInBounds t := by
  obtain rfl := Host.Outcome.next.inj hs
  dsimp only
  split_ifs with _ _ _ hr
  iterate 5 exact h.raise _
  exact h.store (h.mem_inside.writeBlock _ (not_not.1 (not_or.1 hr).2))

theorem BuffersInBounds.of_execRom (h : BuffersInBounds s) (xdst xsrc xn : XReg) (bval : BReg)
    (hs : execRom xdst xsrc xn bval s = .next t) : BuffersInBounds t := by
  obtain rfl := Host.Outcome.next.inj hs
  dsimp only
  split_ifs with hr
  iterate 2 exact h.raise _
  exact h.store (h.mem_inside.oracleBytes _ _ (not_not.1 (not_or.1 hr).2))

theorem BuffersInBounds.prpTable (h : BuffersInBounds s) (f : PrpKeys → Nat → Nat → Nat) (ps : PReg)
    (xdst xn : XReg) : BuffersInBounds (s.prpTable f ps xdst xn) := by
  simp only [State.prpTable]
  split_ifs with _ _ hr
  · exact h.raise _
  · exact h.store (h.mem_inside.writeTable _ hr)
  all_goals exact h.raise _

/-- R216, R217: the range is checked before it is bound. -/
theorem BuffersInBounds.bindCiphertext (h : BuffersInBounds s) (st : CtState) (cd : CReg) (prs : PrReg)
    (xaddr : XReg) : BuffersInBounds (s.bindCiphertext st cd prs xaddr) := by
  rw [State.bindCiphertext]
  split_ifs with _ hr
  · exact h.raise _
  · have hinside : Ciphertext.Inside { st := st, par := s.getPR prs, base := s.getX xaddr } s.memSize :=
      fun _ => hr
    exact (h.setC cd hinside).done
  · exact h.raise _

/-- A store that goes with a new descriptor (R218, R242, R262). -/
theorem BuffersInBounds.storeSetC {m : Memory} {c : Ciphertext} (h : BuffersInBounds s) (cd : CReg)
    (hm : m.Inside s.memSize) (hc : c.Inside s.memSize) :
    BuffersInBounds ((s.setMem m).setC cd c).done :=
  ((h.setMem hm).setC cd hc).done

/-- R218: the zeroed range is the descriptor's own, and the cleared descriptor hosts nothing. -/
theorem BuffersInBounds.of_execCclr (h : BuffersInBounds s) (cd : CReg)
    (hs : execCclr cd s = .next t) : BuffersInBounds t := by
  obtain rfl := Host.Outcome.next.inj hs
  split
  · exact h.raise _
  · next husable =>
    have hrange := h.getC_inside cd (not_not.1 husable)
    refine h.storeSetC cd (h.mem_inside.writeBytes ?_) (by simp [Ciphertext.Inside, ctUsable])
    simpa using hrange

/-- R242: the ciphertext is as long as the descriptor's range. -/
theorem BuffersInBounds.of_execOreenc (h : BuffersInBounds s) (cd : CReg) (ss : SReg) (xmsg : XReg)
    (hs : execOreenc cd ss xmsg s = .next t) : BuffersInBounds t := by
  obtain rfl := Host.Outcome.next.inj hs
  dsimp only
  split_ifs with _ husable _ hscheme
  iterate 4 exact h.raise _
  · have hrange := h.getC_inside cd husable
    refine h.storeSetC cd (h.mem_inside.writeBytes ?_) fun _ => hrange
    rwa [basicEncrypt_length, ← totalLen_of_basic (not_not.1 hscheme)]
  · exact h.raise _

/-- R262: the left component and then the right one fill the descriptor's range; that a left record
is no wider than `W(p)` is the third check of R202, which the descriptor's Params have passed. -/
theorem BuffersInBounds.of_execObenc (hp : ParamsBounds s) (h : BuffersInBounds s) (cd : CReg) (ss : SReg)
    (xmsg : XReg) (hs : execObenc cd ss xmsg s = .next t) : BuffersInBounds t := by
  obtain rfl := Host.Outcome.next.inj hs
  have same := genNext_sameBuffers s
  dsimp only
  split_ifs with _ husable _ hscheme
  iterate 5 exact h.raise _
  · obtain ⟨-, -, hct⟩ := hp
    obtain ⟨-, -, hblock⟩ := hct cd husable
    obtain ⟨-, -, hfits⟩ := hblock (not_not.1 hscheme)
    have hrange := h.getC_inside cd husable
    rw [totalLen_of_block (not_not.1 hscheme)] at hrange
    split
    · next heq =>
      rw [heq] at same
      exact (h.of_same same).raise _
    · next nonce u heq =>
      rw [heq] at same
      refine (h.of_same same).storeSetC cd ?_ ?_ <;> rw [same.memSize]
      · refine (h.mem_inside.writeBytes ?_).writeBytes ?_
        · rw [blockEncrypt_left_length hfits]
          omega
        · rw [blockEncrypt_right_length]
          omega
      · exact fun _ => h.getC_inside cd husable
  · exact h.raise _

end Writers

/-! ### Every command, every step -/

/-- No command writes outside M or binds a range outside M, while the Params of every descriptor are
in bounds. -/
theorem BuffersInBounds.of_exec {i : Instr} {s t : State} (h : BuffersInBounds s) (hp : ParamsBounds s)
    (hs : exec i s = .next t) : BuffersInBounds t := by
  cases i
  case stb => exact h.of_execStb _ _ hs
  case aesem => exact h.of_execAesem _ _ _ _ hs
  case prfm => exact h.of_execPrfm _ _ _ _ _ hs
  case rom => exact h.of_execRom _ _ _ _ hs
  case prpea | prpda =>
    obtain rfl := Host.Outcome.next.inj hs
    exact h.prpTable ..
  case cinit | cload =>
    obtain rfl := Host.Outcome.next.inj hs
    exact h.bindCiphertext ..
  case cclr => exact h.of_execCclr _ hs
  case oreenc => exact h.of_execOreenc _ _ _ hs
  case obenc => exact h.of_execObenc hp _ _ _ hs
  all_goals exact h.of_same (exec_sameBuffers (by simp [writableParts]) (by simp [writableParts]) hs)

/-- `Issue` answers a next state exactly when it decodes to a command that does, or its word is
illegal; the result code is then returned (30_encoding.md R71, R76). -/
theorem issueWith_next {w : CommandWord} {s t : State} (h : issueWith exec w s = .next t) :
    (∃ i u, decode w = .ok i ∧ exec i s = .next u ∧ t = u.reply (.code u.result)) ∨
      t = (s.raise .illegal).reply (.code 10) := by
  cases hd : decode w with
  | error e =>
    simp only [issueWith, hd] at h
    exact .inr (Host.Outcome.next.inj h).symm
  | ok i =>
    cases hu : exec i s with
    | next u =>
      simp only [issueWith, hd, hu] at h
      exact .inl ⟨i, u, rfl, hu, (Host.Outcome.next.inj h).symm⟩
    | fault r => nomatch r
    | refused r => simp [issueWith, hd, hu, issueReply] at h

/-- `Reset()` keeps M and its size and leaves every descriptor uninitialised (R320, R321). -/
theorem BuffersInBounds.hostReset {s : State} (h : BuffersInBounds s) : BuffersInBounds s.hostReset := by
  obtain ⟨hsize, hmem, -⟩ := (buffersInBounds_iff s).1 h
  refine (buffersInBounds_iff _).2 ⟨hsize, hmem, fun i => ?_⟩
  simp [Ciphertext.Inside, State.getC, State.hostReset, State.withResetValues, ctUsable]

theorem BuffersInBounds.of_transact {tx : HostTx} {s t : State} (h : BuffersInBounds s)
    (hp : ParamsBounds s) (hs : transactWith exec tx s = .next t) : BuffersInBounds t := by
  cases tx with
  | issue w =>
    rcases issueWith_next hs with ⟨i, u, -, hu, rfl⟩ | rfl
    · exact (h.of_exec hp hu).reply _
    · exact (h.raise _).reply _
  | readX i | readB i | readCR n =>
    obtain rfl := Host.Outcome.next.inj hs
    exact h.reply _
  | writeX i v | writeB i v =>
    obtain rfl := Host.Outcome.next.inj hs
    exact h.of_same ⟨rfl, rfl, rfl⟩
  | readMem a n =>
    simp only [transactWith] at hs
    split at hs
    · obtain rfl := Host.Outcome.next.inj hs
      exact h.reply _
    · nomatch hs
  | writeMem a bytes =>
    simp only [transactWith] at hs
    split at hs
    · next hr =>
      obtain rfl := Host.Outcome.next.inj hs
      exact h.setMem (h.mem_inside.writeBytes hr)
    · nomatch hs
  | reset =>
    obtain rfl := Host.Outcome.next.inj hs
    exact h.hostReset

/-- A step performs the host's oldest transaction (20_memory.md R62). -/
theorem step_of_inbox {s : State} {tx : HostTx} {rest : List HostTx} (h : s.inbox = tx :: rest) :
    step s = transactWith exec tx { s with inbox := rest } := by
  simp [step, State.nextTransaction, h]

/-- While there is no transaction the engine waits (log 3). -/
theorem step_of_inbox_nil {s : State} (h : s.inbox = []) : step s = .next s := by
  simp [step, State.nextTransaction, h]

/-- Settles O58: a step is one transaction, and no command and no host access stores outside M. -/
theorem buffersStayInBounds : Obligations.BuffersStayInBounds := by
  intro s t hp h hs
  cases hin : s.inbox with
  | nil =>
    rw [step_of_inbox_nil hin] at hs
    obtain rfl := Host.Outcome.next.inj hs
    exact h
  | cons tx rest =>
    rw [step_of_inbox hin] at hs
    have hb : BuffersInBounds { s with inbox := rest } := h.of_same ⟨rfl, rfl, rfl⟩
    exact hb.of_transact hp hs

/-! ### The host's accesses (00_scope.md R8) -/

/-- What a step that only returns a value leaves: everything but the two lists of the host. -/
theorem step_of_read {s : State} {tx : HostTx} {r : HostReply} {rest : List HostTx}
    (h : s.inbox = tx :: rest)
    (hr : transactWith exec tx { s with inbox := rest } = .next (State.reply { s with inbox := rest } r)) :
    step s = .next { s with inbox := rest, replies := s.replies ++ [r] } := by
  rw [step_of_inbox h, hr]
  rfl

theorem changesOnly_setX (s : State) (rest : List HostTx) (i : XReg) (v : XWord) :
    ChangesOnly [.x, .inbox] s (State.setX { s with inbox := rest } i v) := by
  intro q hq
  cases q <;> simp_all [samePart]

theorem changesOnly_setB (s : State) (rest : List HostTx) (i : BReg) (v : Block) :
    ChangesOnly [.b, .inbox] s (State.setB { s with inbox := rest } i v) := by
  intro q hq
  cases q <;> simp_all [samePart]

theorem changesOnly_setMem (s : State) (rest : List HostTx) (m : Memory) :
    ChangesOnly [.mem, .inbox] s (State.setMem { s with inbox := rest } m) := by
  intro q hq
  cases q <;> simp_all [samePart]

theorem Memory.getElem_bytes (m : Memory) (a n k : Nat) (h : k < (m.bytes a n).length) :
    (m.bytes a n)[k] = m.read (a + k) := by
  simp [Memory.bytes]

/-- Settles O8: a step performs the oldest transaction, and the laws of X, B and M say what that leaves. -/
theorem hostReachesRegistersAndMemory : Obligations.HostReachesRegistersAndMemory := by
  intro s rest hwf
  refine ⟨fun i h => step_of_read h rfl, fun i h => step_of_read h rfl, fun i v h => ?writeX,
    fun i v h => ?writeB, fun a n h hr => ?readMem, fun a bytes h hr => ?writeMem⟩
  case writeX =>
    exact ⟨_, step_of_inbox h, rfl, State.setX_getX_self .., State.setX_getX_ne _ i v,
      changesOnly_setX s rest i v⟩
  case writeB =>
    exact ⟨_, step_of_inbox h, rfl, State.setB_getB_self .., State.setB_getB_ne _ i v,
      changesOnly_setB s rest i v⟩
  case readMem =>
    exact ⟨s.mem.bytes a n, step_of_read h (if_pos hr), Memory.bytes_length .., Memory.getElem_bytes s.mem a n⟩
  case writeMem =>
    exact ⟨_, (step_of_inbox h).trans (if_pos hr), rfl,
      fun c hc => Memory.read_writeBytes_outside s.mem bytes hc, changesOnly_setMem s rest _,
      Memory.read_writeBytes_inside hwf a bytes⟩

/-- Settles O14, from the value of a byte string as a weighted sum and of `toBE` modulo `256^n`. -/
theorem byteStringsAndIntegers : Obligations.ByteStringsAndIntegers :=
  ⟨be_eq_sum, fun v n hv => ⟨toBE_length v n, (be_toBE v n).trans (Nat.mod_eq_of_lt hv)⟩⟩

end Sys2Proof.Machine

/-! PROOF. What each command may write, and how the object files move: every entry of K, P, PR, S, C
and the generator is kept or replaced in one of a few ways, from which the invariants of 10_state.md
follow. -/

namespace Sys2Proof.Machine

/-! ### Frames: one update changes one part -/

section Frames

variable {ps : List Part} {s t u : State}

@[simp] theorem ChangesOnly.refl (ps : List Part) (s : State) : ChangesOnly ps s s :=
  fun q _ => samePart_rfl s q

/-- A part that an update keeps is compared with the state before it. -/
theorem samePart_congr {q : Part} (h : samePart q t u) : samePart q s u ↔ samePart q s t := by
  cases q <;> simp_all [samePart]

/-- An update that touches one listed part may be left out of a frame. -/
theorem changesOnly_iff_of_part {q : Part} (hq : q ∈ ps) (h : ∀ r, r ≠ q → samePart r t u) :
    ChangesOnly ps s u ↔ ChangesOnly ps s t :=
  forall₂_congr fun r hr => samePart_congr (h r fun hrq => hr (hrq ▸ hq))

@[simp] theorem changesOnly_setX_iff (h : .x ∈ ps) (i : XReg) (v : XWord) :
    ChangesOnly ps s (t.setX i v) ↔ ChangesOnly ps s t :=
  changesOnly_iff_of_part h fun q hq => by cases q <;> simp_all [samePart]

@[simp] theorem changesOnly_setB_iff (h : .b ∈ ps) (i : BReg) (v : Block) :
    ChangesOnly ps s (t.setB i v) ↔ ChangesOnly ps s t :=
  changesOnly_iff_of_part h fun q hq => by cases q <;> simp_all [samePart]

@[simp] theorem changesOnly_setK_iff (h : .k ∈ ps) (i : KReg) (v : KeyEntry) :
    ChangesOnly ps s (t.setK i v) ↔ ChangesOnly ps s t :=
  changesOnly_iff_of_part h fun q hq => by cases q <;> simp_all [samePart]

@[simp] theorem changesOnly_setP_iff (h : .p ∈ ps) (i : PReg) (v : PrpEntry) :
    ChangesOnly ps s (t.setP i v) ↔ ChangesOnly ps s t :=
  changesOnly_iff_of_part h fun q hq => by cases q <;> simp_all [samePart]

@[simp] theorem changesOnly_setPR_iff (h : .pr ∈ ps) (i : PrReg) (v : Params) :
    ChangesOnly ps s (t.setPR i v) ↔ ChangesOnly ps s t :=
  changesOnly_iff_of_part h fun q hq => by cases q <;> simp_all [samePart]

@[simp] theorem changesOnly_setS_iff (h : .sk ∈ ps) (i : SReg) (v : SecretKey) :
    ChangesOnly ps s (t.setS i v) ↔ ChangesOnly ps s t :=
  changesOnly_iff_of_part h fun q hq => by cases q <;> simp_all [samePart]

@[simp] theorem changesOnly_setC_iff (h : .ct ∈ ps) (i : CReg) (v : Ciphertext) :
    ChangesOnly ps s (t.setC i v) ↔ ChangesOnly ps s t :=
  changesOnly_iff_of_part h fun q hq => by cases q <;> simp_all [samePart]

@[simp] theorem changesOnly_setG_iff (h : .g ∈ ps) (v : Generator) :
    ChangesOnly ps s (t.setG v) ↔ ChangesOnly ps s t :=
  changesOnly_iff_of_part h fun q hq => by cases q <;> simp_all [samePart]

@[simp] theorem changesOnly_setMem_iff (h : .mem ∈ ps) (m : Memory) :
    ChangesOnly ps s (t.setMem m) ↔ ChangesOnly ps s t :=
  changesOnly_iff_of_part h fun q hq => by cases q <;> simp_all [samePart]

@[simp] theorem changesOnly_raise_iff (h : .result ∈ ps) (c : ResultCode) :
    ChangesOnly ps s (t.raise c) ↔ ChangesOnly ps s t :=
  changesOnly_iff_of_part h fun q hq => by cases q <;> simp_all [samePart]

@[simp] theorem changesOnly_done_iff (h : .result ∈ ps) :
    ChangesOnly ps s t.done ↔ ChangesOnly ps s t :=
  changesOnly_iff_of_part h fun q hq => by cases q <;> simp_all [samePart]

@[simp] theorem changesOnly_afterDraw_iff (h : .oracle ∈ ps) :
    ChangesOnly ps s t.afterDraw ↔ ChangesOnly ps s t :=
  changesOnly_iff_of_part h fun q hq => by cases q <;> simp_all [samePart]

@[simp] theorem changesOnly_expandInto_iff (h : .k ∈ ps) (kd : KReg) (key : Block) :
    ChangesOnly ps s (t.expandInto kd key) ↔ ChangesOnly ps s t :=
  changesOnly_setK_iff h _ _

@[simp] theorem changesOnly_setupKey_iff (h : .sk ∈ ps) (sd : SReg) (par : Params) (prf prp : Block) :
    ChangesOnly ps s (t.setupKey sd par prf prp) ↔ ChangesOnly ps s t :=
  changesOnly_setS_iff h _ _

end Frames

/-! ### What each command may write (10_state.md R45, R21, R23) -/

/-- `GenNext` writes G and asks the oracle (44_counter_generator.md R191). -/
theorem genNext_changesOnly (s : State) : ChangesOnly [.g, .oracle] s s.genNext.2 := by
  rw [State.genNext]
  repeat' split
  all_goals simp

theorem prpSingle_changesOnly (s : State) (f : PrpKeys → Nat → Nat → Nat) (xd : XReg) (ps : PReg)
    (xs xn : XReg) : ChangesOnly [.x, .result] s (s.prpSingle f xd ps xs xn) := by
  simp only [State.prpSingle]
  split_ifs <;> simp

theorem prpTable_changesOnly (s : State) (f : PrpKeys → Nat → Nat → Nat) (ps : PReg) (xdst xn : XReg) :
    ChangesOnly [.mem, .result] s (s.prpTable f ps xdst xn) := by
  simp only [State.prpTable]
  split_ifs <;> simp

theorem blockSize_changesOnly (s : State) (len : Nat → Nat → Nat) (xd : XReg) (prs : PrReg) :
    ChangesOnly [.x, .result] s (s.blockSize len xd prs) := by
  rw [State.blockSize]
  split_ifs <;> simp

theorem bindCiphertext_changesOnly (s : State) (st : CtState) (cd : CReg) (prs : PrReg) (xaddr : XReg) :
    ChangesOnly [.ct, .result] s (s.bindCiphertext st cd prs xaddr) := by
  rw [State.bindCiphertext]
  split_ifs <;> simp

/-- No command writes a part it is not listed for. -/
theorem exec_changesOnly {i : Instr} {s t : State} (h : exec i s = .next t) :
    ChangesOnly (writableParts i) s t := by
  cases i <;> obtain rfl := Host.Outcome.next.inj h
  -- straight-line commands
  case nop | li | lih | mkb | xbh | xbl | kexp | ro | gseed => simp [writableParts]
  -- a chain of checks, each ending in an error code or in the command's own writes
  case ldb | stb | kexpm | kclr | aese | aesem | prf | prfm | rom | pkexp | pclr | pinitb | pinitl |
      csize | skset | sclr | cclr | oreenc | orecmp =>
    dsimp only [writableParts]
    split_ifs <;> simp
  case prpe | prpd => exact prpSingle_changesOnly _ _ _ _ _ _
  case prpea | prpda => exact prpTable_changesOnly _ _ _ _ _
  case cszl | cszr => exact blockSize_changesOnly _ _ _ _
  case cinit | cload => exact bindCiphertext_changesOnly _ _ _ _ _
  -- commands that also turn on an answer of the oracle or on a comparison
  case kgen | setup | obcmp =>
    dsimp only [writableParts]
    repeat' split
    all_goals simp
  case gnext =>
    have hgen : ChangesOnly [.b, .g, .oracle, .result] s s.genNext.2 :=
      (genNext_changesOnly s).mono (by simp)
    rcases hu : s.genNext with ⟨_ | v, u⟩ <;> rw [hu] at hgen
    all_goals simpa [writableParts] using hgen
  case obenc =>
    have hgen : ChangesOnly [.ct, .mem, .g, .oracle, .result] s s.genNext.2 :=
      (genNext_changesOnly s).mono (by simp)
    rcases hu : s.genNext with ⟨_ | v, u⟩ <;> rw [hu] at hgen
    all_goals
      dsimp only [writableParts]
      split_ifs <;> simp [hgen]

/-! ### Entries of a file -/

/-- A relation that holds of every entry and itself and of entry `i` and its new value holds of every
entry before and after the write. -/
theorem vector_set_related {α : Type} {R : α → α → Prop} (refl : ∀ a, R a a) (v : Vector α 16)
    {i : Fin 16} {a : α} (h : R v[i] a) (j : Fin 16) : R v[j] (v.set i a)[j] := by
  by_cases hj : i = j
  · subst hj
    simpa using h
  · have hne : (v.set i a)[j] = v[j] := Vector.getElem_set_ne _ _ fun e => hj (Fin.ext e)
    rw [hne]
    exact refl _

/-- A descriptor is kept, or the ciphertext it hosts is written and it becomes Populated (R242, R262). -/
inductive Ciphertext.Filled (c : Ciphertext) : Ciphertext → Prop where
  | kept : c.Filled c
  | populated (h : ctUsable c.st) : c.Filled { c with st := .populated }

theorem Ciphertext.Filled.keeps {c d : Ciphertext} (h : c.Filled d) : d.par = c.par ∧ d.base = c.base := by
  cases h <;> exact ⟨rfl, rfl⟩

theorem Ciphertext.Filled.setC {s t : State} {cd : CReg} (hct : t.ct = s.ct)
    (h : ctUsable (s.getC cd).st) (j : CReg) :
    (s.getC j).Filled ((t.setC cd { s.getC cd with st := .populated }).getC j) := by
  simp only [State.getC, State.setC, hct]
  exact vector_set_related (R := Ciphertext.Filled) (fun _ => .kept) s.ct (.populated h) j

theorem oreenc_filled {cd : CReg} {ss : SReg} {xmsg : XReg} {s t : State}
    (h : exec (.oreenc cd ss xmsg) s = .next t) (j : CReg) : (s.getC j).Filled (t.getC j) := by
  obtain rfl := Host.Outcome.next.inj h
  dsimp only
  split_ifs with _ husable
  iterate 4 exact .kept
  · exact .setC (t := s.setMem _) rfl husable j
  · exact .kept

theorem obenc_filled {cd : CReg} {ss : SReg} {xmsg : XReg} {s t : State}
    (h : exec (.obenc cd ss xmsg) s = .next t) (j : CReg) : (s.getC j).Filled (t.getC j) := by
  obtain rfl := Host.Outcome.next.inj h
  have hct : s.genNext.2.ct = s.ct := (genNext_sameBuffers s).ct
  dsimp only
  split_ifs with _ husable
  iterate 5 exact .kept
  · split
    · next u hu =>
      rw [hu] at hct
      rw [State.raise_getC, State.getC, State.getC, hct]
      exact .kept
    · next nonce u hu =>
      rw [hu] at hct
      exact .setC (t := u.setMem _) hct husable j
  · exact .kept

/-- Settles O54: the frame of each command, and OREENC and OBENC only fill a descriptor. -/
theorem commandsWriteOnlyTheirState : Obligations.CommandsWriteOnlyTheirState := by
  refine fun i s t h => ⟨exec_changesOnly h, fun hi j => ?_⟩
  by_cases hct : .ct ∈ writableParts i
  · cases i
    case cinit cd prs xaddr => exact absurd rfl (hi cd prs xaddr).1
    case cload cd prs xaddr => exact absurd rfl (hi cd prs xaddr).2.1
    case cclr cd => exact absurd rfl (hi cd 0 0).2.2
    case oreenc => exact (oreenc_filled h j).keeps
    case obenc => exact (obenc_filled h j).keeps
    all_goals simp [writableParts] at hct
  · have hsame : t.ct = s.ct := exec_changesOnly h .ct hct
    simp [State.getC, hsame]

/-! ### How the object files move

The lifecycle of 10_state.md R26: what one step can make of an entry of each file, whichever command
or host transaction it performs. The invariants below are each derived from these moves. -/

/-- KGEN, KEXP, KEXPM expand a key; KCLR and `Reset()` zero it (R120 to R124, R320). -/
inductive KeyEntry.Moves (e : KeyEntry) : KeyEntry → Prop where
  | kept : e.Moves e
  | reset : e.Moves { st := .uninitialized, rk := zeroKey }
  | cleared : e.Moves { st := .cleared, rk := zeroKey }
  | expanded (key : Block) : e.Moves { st := .initialized, rk := keyExpansion key }

/-- PKEXP makes three key schedules; PCLR and `Reset()` zero them (R165, R166, R320). -/
inductive PrpEntry.Moves (e : PrpEntry) : PrpEntry → Prop where
  | kept : e.Moves e
  | reset : e.Moves { st := .uninitialized, rk := zeroPrpKeys }
  | cleared : e.Moves { st := .cleared, rk := zeroPrpKeys }
  | expanded (rk : ExpandedKey) : e.Moves { st := .initialized, rk := prpKeyExpand rk }

/-- PINITB and PINITL check the bounds first (R201, R202); `Reset()` zeroes (R320). -/
inductive Params.Moves (p : Params) : Params → Prop where
  | kept : p.Moves p
  | reset : p.Moves zeroParams
  | initialised {q : Params} (h : paramsValid q) : p.Moves q

/-- SETUP and SKSET copy an initialised entry of `pr`; SCLR and `Reset()` zero (R210, R212, R215,
R320). -/
inductive SecretKey.Moves (pr : Vector Params 16) (e : SecretKey) : SecretKey → Prop where
  | kept : e.Moves pr e
  | reset : e.Moves pr { st := .uninitialized, par := zeroParams, prf := zeroKey, prp := zeroKey }
  | cleared : e.Moves pr { st := .cleared, par := zeroParams, prf := zeroKey, prp := zeroKey }
  | setUp (prs : PrReg) (h : pr[prs].init = true) (prf prp : Block) :
    e.Moves pr
      { st := .initialized, par := pr[prs], prf := keyExpansion prf
        prp := if pr[prs].scheme = .block then keyExpansion prp else zeroKey }

/-- CINIT and CLOAD copy an initialised entry of `pr`; OREENC and OBENC fill; CCLR and `Reset()` zero
(R216 to R218, R242, R262, R320). -/
inductive Ciphertext.Moves (pr : Vector Params 16) (c : Ciphertext) : Ciphertext → Prop where
  | filled {d : Ciphertext} (h : c.Filled d) : c.Moves pr d
  | reset : c.Moves pr { st := .uninitialized, par := zeroParams, base := 0 }
  | cleared : c.Moves pr { st := .cleared, par := zeroParams, base := 0 }
  | bound (prs : PrReg) (h : pr[prs].init = true) {st : CtState} (hst : ctUsable st) (base : XWord) :
    c.Moves pr { st := st, par := pr[prs], base := base }

/-- GSEED seeds, `GenNext` advances the generator and seeds it first where it has to (R191, R193). -/
inductive Generator.Moves (g : Generator) : Generator → Prop where
  | kept : g.Moves g
  | reset : g.Moves { seeded := false, rk := zeroKey, ctr := 0 }
  | seeded (key : Block) : g.Moves (seededGenerator key)
  | advanced (h : g.seeded = true) : g.Moves (generatorAfter g)
  | seededAdvanced (key : Block) : g.Moves (generatorAfter (seededGenerator key))

/-- Every entry of every object file moved so. -/
structure State.Moves (s t : State) : Prop where
  k : ∀ i, (s.getK i).Moves (t.getK i)
  p : ∀ i, (s.getP i).Moves (t.getP i)
  pr : ∀ i, (s.getPR i).Moves (t.getPR i)
  sk : ∀ i, (s.getS i).Moves s.pr (t.getS i)
  ct : ∀ i, (s.getC i).Moves s.pr (t.getC i)
  g : s.g.Moves t.g

/-! ### The moves of each command -/

section Commands

variable {i : Instr} {s t : State}

theorem exec_moves_k (h : exec i s = .next t) (j : KReg) : (s.getK j).Moves (t.getK j) := by
  by_cases hw : .k ∈ writableParts i
  · have write {kd : KReg} {v : KeyEntry} (hv : (s.getK kd).Moves v) :
        (s.getK j).Moves ((s.setK kd v).getK j) :=
      vector_set_related (fun _ => .kept) s.k hv j
    cases i
    case kgen =>
      obtain rfl := Host.Outcome.next.inj h
      split
      · exact .kept
      · exact write (.expanded _)
    case kexp =>
      obtain rfl := Host.Outcome.next.inj h
      exact write (.expanded _)
    case kexpm =>
      obtain rfl := Host.Outcome.next.inj h
      split
      · exact .kept
      split
      · exact .kept
      · exact write (.expanded _)
    case kclr =>
      obtain rfl := Host.Outcome.next.inj h
      split_ifs
      · exact .kept
      · exact write .cleared
    all_goals simp [writableParts] at hw
  · have hsame : t.k = s.k := exec_changesOnly h .k hw
    rw [State.getK, State.getK, hsame]
    exact .kept

theorem exec_moves_p (h : exec i s = .next t) (j : PReg) : (s.getP j).Moves (t.getP j) := by
  by_cases hw : .p ∈ writableParts i
  · have write {pd : PReg} {v : PrpEntry} (hv : (s.getP pd).Moves v) :
        (s.getP j).Moves ((s.setP pd v).getP j) :=
      vector_set_related (fun _ => .kept) s.p hv j
    cases i
    case pkexp =>
      obtain rfl := Host.Outcome.next.inj h
      split_ifs
      · exact .kept
      · exact write (.expanded _)
    case pclr =>
      obtain rfl := Host.Outcome.next.inj h
      split_ifs
      · exact .kept
      · exact write .cleared
    all_goals simp [writableParts] at hw
  · have hsame : t.p = s.p := exec_changesOnly h .p hw
    rw [State.getP, State.getP, hsame]
    exact .kept

/-- What passes the checks of R201 is within the bounds of R32. -/
theorem paramsValid_basic {n bp : Nat} (hwide : ¬ (2 ^ 32 ≤ n ∨ 2 ^ 32 ≤ bp))
    (hbounds : ¬ (bp < Config.outBlkMin ∨ Config.outBlkMax < bp)) :
    paramsValid { init := true, scheme := .basic, nbits := BitVec.ofNat 32 n, bp := BitVec.ofNat 32 bp } := by
  have hbp : (BitVec.ofNat 32 bp).toNat = bp := Nat.mod_eq_of_lt (by omega)
  refine ⟨rfl, fun _ => ?_, fun hblock => nomatch hblock⟩
  simp only [Config.outBlkMin, Config.outBlkMax] at hbounds
  rw [hbp]
  omega

/-- What passes the checks of R202 is within the bounds of R32. -/
theorem paramsValid_block {n bp : Nat} (hwide : ¬ (2 ^ 32 ≤ n ∨ 2 ^ 32 ≤ bp))
    (hbounds : ¬ (bp < Config.blockLenMin ∨ Config.blockLenMax < bp)) (hfits : ¬ divUp n 8 < divUp bp 8) :
    paramsValid { init := true, scheme := .block, nbits := BitVec.ofNat 32 n, bp := BitVec.ofNat 32 bp } := by
  have hn : (BitVec.ofNat 32 n).toNat = n := Nat.mod_eq_of_lt (by omega)
  have hbp : (BitVec.ofNat 32 bp).toNat = bp := Nat.mod_eq_of_lt (by omega)
  refine ⟨rfl, (fun hbasic => nomatch hbasic), fun _ => ?_⟩
  simp only [Config.blockLenMin, Config.blockLenMax] at hbounds
  rw [hn, hbp]
  omega

theorem exec_moves_pr (h : exec i s = .next t) (j : PrReg) : (s.getPR j).Moves (t.getPR j) := by
  by_cases hw : .pr ∈ writableParts i
  · have write {prd : PrReg} {v : Params} (hv : paramsValid v) :
        (s.getPR j).Moves ((s.setPR prd v).getPR j) :=
      vector_set_related (fun _ => .kept) s.pr (.initialised hv) j
    cases i
    case pinitb =>
      obtain rfl := Host.Outcome.next.inj h
      dsimp only
      split
      · exact .kept
      next hwide =>
        split
        · exact .kept
        · next hbounds => exact write (paramsValid_basic hwide hbounds)
    case pinitl =>
      obtain rfl := Host.Outcome.next.inj h
      dsimp only
      split
      · exact .kept
      next hwide =>
        split
        · exact .kept
        next hbounds =>
          split
          · exact .kept
          · next hfits => exact write (paramsValid_block hwide hbounds hfits)
    all_goals simp [writableParts] at hw
  · have hsame : t.pr = s.pr := exec_changesOnly h .pr hw
    rw [State.getPR, State.getPR, hsame]
    exact .kept

theorem exec_moves_sk (h : exec i s = .next t) (j : SReg) : (s.getS j).Moves s.pr (t.getS j) := by
  by_cases hw : .sk ∈ writableParts i
  · have write {sd : SReg} {v : SecretKey} (hv : (s.getS sd).Moves s.pr v) :
        (s.getS j).Moves s.pr ((s.setS sd v).getS j) :=
      vector_set_related (R := SecretKey.Moves s.pr) (fun _ => .kept) s.sk hv j
    cases i
    case setup sd prs =>
      obtain rfl := Host.Outcome.next.inj h
      split
      · exact .kept
      next hinit =>
        have setUp (prf prp : Block) :=
          write (sd := sd) (.setUp prs (Bool.eq_true_of_not_eq_false hinit) prf prp)
        split
        · exact .kept
        split
        · exact setUp _ _
        split
        · exact .kept
        · exact setUp _ _
    case skset sd prs bprf bprp =>
      obtain rfl := Host.Outcome.next.inj h
      split
      · exact .kept
      · next hinit => exact write (.setUp prs (Bool.eq_true_of_not_eq_false hinit) _ _)
    case sclr =>
      obtain rfl := Host.Outcome.next.inj h
      split_ifs
      · exact .kept
      · exact write .cleared
    all_goals simp [writableParts] at hw
  · have hsame : t.sk = s.sk := exec_changesOnly h .sk hw
    rw [State.getS, State.getS, hsame]
    exact .kept

theorem bindCiphertext_moves (s : State) {st : CtState} (hst : ctUsable st) (cd : CReg) (prs : PrReg)
    (xaddr : XReg) (j : CReg) : (s.getC j).Moves s.pr ((s.bindCiphertext st cd prs xaddr).getC j) := by
  rw [State.bindCiphertext]
  split_ifs with hinit
  · exact .filled .kept
  · exact vector_set_related (R := Ciphertext.Moves s.pr) (fun _ => .filled .kept) s.ct
      (.bound prs (Bool.eq_true_of_not_eq_false hinit) hst _) j
  · exact .filled .kept

theorem exec_moves_ct (h : exec i s = .next t) (j : CReg) : (s.getC j).Moves s.pr (t.getC j) := by
  by_cases hw : .ct ∈ writableParts i
  · cases i
    case cinit =>
      obtain rfl := Host.Outcome.next.inj h
      exact bindCiphertext_moves s (.inl rfl) ..
    case cload =>
      obtain rfl := Host.Outcome.next.inj h
      exact bindCiphertext_moves s (.inr rfl) ..
    case cclr =>
      obtain rfl := Host.Outcome.next.inj h
      split
      · exact .filled .kept
      · exact vector_set_related (R := Ciphertext.Moves s.pr) (fun _ => .filled .kept) s.ct .cleared j
    case oreenc => exact .filled (oreenc_filled h j)
    case obenc => exact .filled (obenc_filled h j)
    all_goals simp [writableParts] at hw
  · have hsame : t.ct = s.ct := exec_changesOnly h .ct hw
    rw [State.getC, State.getC, hsame]
    exact .filled .kept

theorem genNext_moves (s : State) : s.g.Moves s.genNext.2.g := by
  rw [State.genNext]
  split
  · next hseeded => exact .advanced hseeded
  split
  · exact .kept
  · exact .seededAdvanced _

theorem exec_moves_g (h : exec i s = .next t) : s.g.Moves t.g := by
  by_cases hw : .g ∈ writableParts i
  · have hgen := genNext_moves s
    cases i
    case gseed =>
      obtain rfl := Host.Outcome.next.inj h
      exact .seeded _
    case gnext =>
      obtain rfl := Host.Outcome.next.inj h
      split
      all_goals
        next hu =>
          rw [hu] at hgen
          exact hgen
    case obenc =>
      obtain rfl := Host.Outcome.next.inj h
      dsimp only
      split_ifs
      iterate 5 exact .kept
      · split
        all_goals
          next hu =>
            rw [hu] at hgen
            exact hgen
      · exact .kept
    all_goals simp [writableParts] at hw
  · have hsame : t.g = s.g := exec_changesOnly h .g hw
    rw [hsame]
    exact .kept

theorem exec_moves (h : exec i s = .next t) : s.Moves t :=
  ⟨exec_moves_k h, exec_moves_p h, exec_moves_pr h, exec_moves_sk h, exec_moves_ct h, exec_moves_g h⟩

end Commands

/-! ### The values after reset (10_state.md R46) -/

section Reset

variable (m : Memory) (size : Nat)

@[simp] theorem State.withResetValues_getX (i : XReg) : (State.withResetValues m size).getX i = 0 := by
  simp [State.getX, State.withResetValues]

@[simp] theorem State.withResetValues_getB (i : BReg) : (State.withResetValues m size).getB i = 0 := by
  simp [State.getB, State.withResetValues]

@[simp] theorem State.withResetValues_getK (i : KReg) :
    (State.withResetValues m size).getK i = { st := .uninitialized, rk := zeroKey } := by
  simp [State.getK, State.withResetValues]

@[simp] theorem State.withResetValues_getP (i : PReg) :
    (State.withResetValues m size).getP i = { st := .uninitialized, rk := zeroPrpKeys } := by
  simp [State.getP, State.withResetValues]

@[simp] theorem State.withResetValues_getPR (i : PrReg) :
    (State.withResetValues m size).getPR i = zeroParams := by
  simp [State.getPR, State.withResetValues]

@[simp] theorem State.withResetValues_getS (i : SReg) :
    (State.withResetValues m size).getS i =
      { st := .uninitialized, par := zeroParams, prf := zeroKey, prp := zeroKey } := by
  simp [State.getS, State.withResetValues]

@[simp] theorem State.withResetValues_getC (i : CReg) :
    (State.withResetValues m size).getC i = { st := .uninitialized, par := zeroParams, base := 0 } := by
  simp [State.getC, State.withResetValues]

@[simp] theorem State.withResetValues_g :
    (State.withResetValues m size).g = { seeded := false, rk := zeroKey, ctr := 0 } := rfl

@[simp] theorem State.withResetValues_result : (State.withResetValues m size).result = 0 := rfl

end Reset

/-! ### The moves of a step -/

/-- From anywhere to the values of R46. -/
theorem moves_withResetValues (s : State) (m : Memory) (size : Nat) :
    s.Moves (State.withResetValues m size) where
  k i := by simpa using .reset
  p i := by simpa using .reset
  pr i := by simpa using .reset
  sk i := by simpa using .reset
  ct i := by simpa using .reset
  g := .reset

/-- Reading, waiting and the host's writes of X, B and M move nothing. -/
theorem State.Moves.of_same {s t : State} (hk : t.k = s.k) (hp : t.p = s.p) (hpr : t.pr = s.pr)
    (hsk : t.sk = s.sk) (hct : t.ct = s.ct) (hg : t.g = s.g) : s.Moves t where
  k i := by simpa only [State.getK, hk] using .kept
  p i := by simpa only [State.getP, hp] using .kept
  pr i := by simpa only [State.getPR, hpr] using .kept
  sk i := by simpa only [State.getS, hsk] using .kept
  ct i := by simpa only [State.getC, hct] using .filled .kept
  g := by simpa only [hg] using .kept

/-- The lists of the host are no object file. -/
theorem State.Moves.of_lists {s t : State} {rest : List HostTx} (h : State.Moves { s with inbox := rest } t) :
    s.Moves t := ⟨h.k, h.p, h.pr, h.sk, h.ct, h.g⟩

theorem State.Moves.reply {s t : State} (h : s.Moves t) (r : HostReply) : s.Moves (t.reply r) :=
  ⟨h.k, h.p, h.pr, h.sk, h.ct, h.g⟩

theorem transact_moves {tx : HostTx} {s t : State} (hs : transactWith exec tx s = .next t) : s.Moves t := by
  cases tx with
  | issue w =>
    rcases issueWith_next hs with ⟨i, u, -, hu, rfl⟩ | rfl
    · exact (exec_moves hu).reply _
    · exact .of_same rfl rfl rfl rfl rfl rfl
  | readX i | readB i | readCR n | writeX i v | writeB i v =>
    obtain rfl := Host.Outcome.next.inj hs
    exact .of_same rfl rfl rfl rfl rfl rfl
  | readMem a n | writeMem a bytes =>
    simp only [transactWith] at hs
    split at hs
    · obtain rfl := Host.Outcome.next.inj hs
      exact .of_same rfl rfl rfl rfl rfl rfl
    · nomatch hs
  | reset =>
    obtain rfl := Host.Outcome.next.inj hs
    obtain ⟨hk, hp, hpr, hsk, hct, hg⟩ := moves_withResetValues s s.mem s.memSize
    exact ⟨hk, hp, hpr, hsk, hct, hg⟩

/-- Whatever a step does, the object files move as listed. -/
theorem step_moves {s t : State} (hs : step s = .next t) : s.Moves t := by
  cases hin : s.inbox with
  | nil =>
    rw [step_of_inbox_nil hin] at hs
    obtain rfl := Host.Outcome.next.inj hs
    exact .of_same rfl rfl rfl rfl rfl rfl
  | cons tx rest =>
    rw [step_of_inbox hin] at hs
    exact (transact_moves hs).of_lists

/-! ### Zeroisation (10_state.md R27) -/

theorem KeyEntry.Moves.zeroised {e f : KeyEntry} (h : e.Moves f)
    (he : e.st ≠ .initialized → e.rk = zeroKey) : f.st ≠ .initialized → f.rk = zeroKey := by
  cases h with
  | kept => exact he
  | reset | cleared => exact fun _ => rfl
  | expanded key => exact fun hst => absurd rfl hst

theorem PrpEntry.Moves.zeroised {e f : PrpEntry} (h : e.Moves f)
    (he : e.st ≠ .initialized → e.rk = zeroPrpKeys) : f.st ≠ .initialized → f.rk = zeroPrpKeys := by
  cases h with
  | kept => exact he
  | reset | cleared => exact fun _ => rfl
  | expanded rk => exact fun hst => absurd rfl hst

theorem SecretKey.Moves.zeroised {pr : Vector Params 16} {e f : SecretKey} (h : e.Moves pr f)
    (he : e.st ≠ .initialized → e.par = zeroParams ∧ e.prf = zeroKey ∧ e.prp = zeroKey) :
    f.st ≠ .initialized → f.par = zeroParams ∧ f.prf = zeroKey ∧ f.prp = zeroKey := by
  cases h with
  | kept => exact he
  | reset | cleared => exact fun _ => ⟨rfl, rfl, rfl⟩
  | setUp prs hinit prf prp => exact fun hst => absurd rfl hst

theorem Ciphertext.Moves.zeroised {pr : Vector Params 16} {c d : Ciphertext} (h : c.Moves pr d)
    (hc : ¬ ctUsable c.st → c.par = zeroParams ∧ c.base = 0) :
    ¬ ctUsable d.st → d.par = zeroParams ∧ d.base = 0 := by
  cases h with
  | filled hfilled =>
    cases hfilled with
    | kept => exact hc
    | populated husable => exact fun hst => absurd (.inr rfl) hst
  | reset | cleared => exact fun _ => ⟨rfl, rfl⟩
  | bound prs hinit husable base => exact fun hst => absurd husable hst

/-- Settles O56: an entry that a step takes out of use is zeroed, one that it writes is in use. -/
theorem zeroisationIsKept : Obligations.ZeroisationIsKept := by
  intro s t ⟨hk, hp, hsk, hct⟩ hs
  have moves := step_moves hs
  exact ⟨fun i => (moves.k i).zeroised (hk i), fun i => (moves.p i).zeroised (hp i),
    fun i => (moves.sk i).zeroised (hsk i), fun i => (moves.ct i).zeroised (hct i)⟩

/-! ### Params in bounds (10_state.md R32, R33) -/

theorem Params.Moves.bounded {p q : Params} (h : p.Moves q) (hp : p.init = true → paramsValid p) :
    q.init = true → paramsValid q := by
  cases h with
  | kept => exact hp
  | reset => exact fun hinit => nomatch hinit
  | initialised hq => exact fun _ => hq

section Copies

variable {pr : Vector Params 16} (hpr : ∀ i : PrReg, pr[i].init = true → paramsValid pr[i])
include hpr

theorem SecretKey.Moves.bounded {e f : SecretKey} (h : e.Moves pr f)
    (he : e.st = .initialized → paramsValid e.par ∧ (e.par.scheme = .basic → e.prp = zeroKey)) :
    f.st = .initialized → paramsValid f.par ∧ (f.par.scheme = .basic → f.prp = zeroKey) := by
  cases h with
  | kept => exact he
  | reset | cleared => exact fun hst => nomatch hst
  | setUp prs hinit prf prp =>
    refine fun _ => ⟨hpr prs hinit, fun (hbasic : pr[prs].scheme = .basic) => if_neg ?_⟩
    simp only [hbasic, reduceCtorEq, not_false_eq_true]

theorem Ciphertext.Moves.bounded {c d : Ciphertext} (h : c.Moves pr d)
    (hc : ctUsable c.st → paramsValid c.par) : ctUsable d.st → paramsValid d.par := by
  cases h with
  | filled hfilled =>
    cases hfilled with
    | kept => exact hc
    | populated husable => exact fun _ => hc husable
  | reset | cleared => exact fun hst => by simp [ctUsable] at hst
  | bound prs hinit husable base => exact fun _ => hpr prs hinit

end Copies

/-- Settles O57: PINITB and PINITL check the bounds, and S and C copy initialised Params only. -/
theorem paramsStayInBounds : Obligations.ParamsStayInBounds := by
  intro s t ⟨hpr, hsk, hct⟩ hs
  have moves := step_moves hs
  exact ⟨fun i => (moves.pr i).bounded (hpr i), fun i => (moves.sk i).bounded hpr (hsk i),
    fun i => (moves.ct i).bounded hpr (hct i)⟩

/-! ### Keys are schedules (10_state.md R30, R31, R33, R35) -/

/-- Round key 0 is the cipher key (41_block_cipher_core.md R116). -/
theorem isSchedule_keyExpansion (key : Block) : isSchedule (keyExpansion key) := rfl

theorem isSchedule_prpKeyExpand (rk : ExpandedKey) (j : Fin 3) : isSchedule (prpKeyExpand rk)[j] := by
  fin_cases j <;> exact isSchedule_keyExpansion _

theorem KeyEntry.Moves.schedule {e f : KeyEntry} (h : e.Moves f)
    (he : e.st = .initialized → isSchedule e.rk) : f.st = .initialized → isSchedule f.rk := by
  cases h with
  | kept => exact he
  | reset | cleared => exact fun hst => nomatch hst
  | expanded key => exact fun _ => isSchedule_keyExpansion key

theorem PrpEntry.Moves.schedule {e f : PrpEntry} (h : e.Moves f)
    (he : e.st = .initialized → ∀ j : Fin 3, isSchedule e.rk[j]) :
    f.st = .initialized → ∀ j : Fin 3, isSchedule f.rk[j] := by
  cases h with
  | kept => exact he
  | reset | cleared => exact fun hst => nomatch hst
  | expanded rk => exact fun _ => isSchedule_prpKeyExpand rk

theorem SecretKey.Moves.schedule {pr : Vector Params 16} {e f : SecretKey} (h : e.Moves pr f)
    (he : e.st = .initialized → isSchedule e.prf ∧ (e.par.scheme = .block → isSchedule e.prp)) :
    f.st = .initialized → isSchedule f.prf ∧ (f.par.scheme = .block → isSchedule f.prp) := by
  cases h with
  | kept => exact he
  | reset | cleared => exact fun hst => nomatch hst
  | setUp prs hinit prf prp =>
    refine fun _ => ⟨isSchedule_keyExpansion prf, fun hblock => ?_⟩
    rw [if_pos hblock]
    exact isSchedule_keyExpansion prp

theorem Generator.Moves.schedule {g g' : Generator} (h : g.Moves g')
    (hg : g.seeded = true → isSchedule g.rk) : g'.seeded = true → isSchedule g'.rk := by
  cases h with
  | kept => exact hg
  | reset => exact fun hseeded => nomatch hseeded
  | seeded key | seededAdvanced key => exact fun _ => isSchedule_keyExpansion key
  | advanced hseeded => exact fun _ => hg hseeded

/-- Settles O59: every key a step brings into use is what `KeyExpansion` made of a block. -/
theorem keysStaySchedules : Obligations.KeysStaySchedules := by
  intro s t ⟨hk, hp, hsk, hg⟩ hs
  have moves := step_moves hs
  exact ⟨fun i => (moves.k i).schedule (hk i), fun i => (moves.p i).schedule (hp i),
    fun i => (moves.sk i).schedule (hsk i), moves.g.schedule hg⟩

end Sys2Proof.Machine

/-! PROOF. The values after reset and power-on, the control registers, and what the host can see. -/

namespace Sys2Proof.Machine

/-! ### Reset and power-on (10_state.md R46, 70_reset_and_hazards.md R320, R321) -/

@[simp] theorem getElem_zeroKey {r : Nat} (hr : r < 11) : zeroKey[r] = 0 := by simp [zeroKey]

@[simp] theorem getElem_zeroPrpKeys {q : Nat} (hq : q < 3) : zeroPrpKeys[q] = zeroKey := by simp [zeroPrpKeys]

/-- Settles O10: power-on and `Reset()` both take the values of R46 and keep M. -/
theorem resetLeavesTheListedValues : Obligations.ResetLeavesTheListedValues := by
  unfold Obligations.ResetLeavesTheListedValues
  intro listed
  have listed_resetValues (m : Memory) (size : Nat) : listed (State.withResetValues m size) := by
    refine ⟨?x, ?b, ?k, ?p, ?pr, ?sk, ?ct, rfl, ?g, rfl, rfl⟩
    all_goals simp [zeroParams]
  refine ⟨fun m size => ⟨listed_resetValues m size, rfl, rfl⟩, fun s rest h => ?_⟩
  exact ⟨_, step_of_inbox h, listed_resetValues s.mem s.memSize, rfl, rfl⟩

theorem zeroised_withResetValues (m : Memory) (size : Nat) : Zeroised (State.withResetValues m size) := by
  simp [Zeroised]

theorem paramsBounds_withResetValues (m : Memory) (size : Nat) :
    ParamsBounds (State.withResetValues m size) := by
  simp [ParamsBounds, zeroParams, ctUsable]

theorem keysAreSchedules_withResetValues (m : Memory) (size : Nat) :
    KeysAreSchedules (State.withResetValues m size) := by
  simp [KeysAreSchedules]

theorem buffersInBounds_withResetValues {m : Memory} {size : Nat} (hsize : Config.memSizeMin ≤ size)
    (hm : m.Inside size) : BuffersInBounds (State.withResetValues m size) :=
  (buffersInBounds_iff _).2 ⟨hsize, hm, fun i => by simp [Ciphertext.Inside, ctUsable]⟩

/-- Settles O60: nothing is in use after power-on, and the memory given is canonical inside its size. -/
theorem resetMeetsTheInvariants : Obligations.ResetMeetsTheInvariants := by
  unfold Obligations.ResetMeetsTheInvariants
  intro meets
  have powerOn_meets (m : Memory) (size : Config.MemSize) (hwf : m.wf = true)
      (hcells : ∀ cell ∈ m.cells, cell.1 < size.val) : meets (State.powerOn m size) :=
    ⟨zeroised_withResetValues m size, paramsBounds_withResetValues m size,
      buffersInBounds_withResetValues size.property ⟨hwf, hcells⟩,
      keysAreSchedules_withResetValues m size, Nat.zero_le 10⟩
  exact ⟨powerOn_meets, powerOn_meets _ _ rfl (by simp)⟩

/-! ### Control registers (10_state.md R40 to R43) -/

/-- A bit of a word made by `or` is a bit of one of the words. -/
theorem getLsbD_foldl_or {ι : Type} (f : ι → BitVec 32) (l : List ι) (acc : BitVec 32) (n : Nat) :
    (l.foldl (fun acc i => acc ||| f i) acc).getLsbD n =
      (acc.getLsbD n || l.any fun i => (f i).getLsbD n) := by
  induction l generalizing acc with
  | nil => simp
  | cons i rest ih => simp [ih, Bool.or_assoc]

/-- Bits `2j+1 : 2j` of the word that holds the code of entry `i` are that code for `j = i`, else 0. -/
theorem getLsbD_codeAt (c : BitVec 2) (i j : Fin 16) {n : Nat} (hn : n < 2) :
    (c.zeroExtend 32 <<< (2 * i.val)).getLsbD (2 * j + n) = (decide (i = j) && c.getLsbD n) := by
  have hword : 2 * j.val + n < 32 := by omega
  rw [BitVec.getLsbD_shiftLeft, BitVec.zeroExtend_eq_setWidth, BitVec.getLsbD_setWidth]
  rcases lt_trichotomy i j with hlt | rfl | hgt
  · have hclear : c.getLsbD (2 * j + n - 2 * i) = false := BitVec.getLsbD_of_ge _ _ (by omega)
    simp [hclear, hlt.ne]
  · simp [hword, show n < 32 by omega]
  · have hbelow : 2 * j.val + n < 2 * i.val := by omega
    simp [hbelow, hgt.ne']

/-- Bits `2i+1 : 2i` hold the code of entry `i` (R42). -/
theorem extractLsb'_stateWord (code : Fin 16 → BitVec 2) (i : Fin 16) :
    (stateWord code).extractLsb' (2 * i) 2 = code i := by
  apply BitVec.eq_of_getLsbD_eq
  intro n hn
  have bits (j : Fin 16) := getLsbD_codeAt (code j) j i hn
  have only_own :
      ((List.finRange 16).any fun j => decide (j = i) && (code j).getLsbD n) = (code i).getLsbD n := by
    rw [Bool.eq_iff_iff]
    simp
  simpa [stateWord, getLsbD_foldl_or, hn, bits] using only_own

@[simp] theorem stateWord_zero : (stateWord fun _ => 0#2) = 0#32 := by decide

/-- A number above 6 names no control register and reads 0 (R43). -/
theorem controlRegister_above (s : State) {n : Nat} (h : 6 < n) : s.controlRegister n = 0 := by
  obtain ⟨k, rfl⟩ := Nat.exists_eq_add_of_lt h
  rw [show 6 + k + 1 = k + 7 by omega]
  rfl

/-- R46 in the control registers: every code and RESULT are 0. -/
theorem controlRegister_withResetValues (m : Memory) (size n : Nat) :
    (State.withResetValues m size).controlRegister n = 0 := by
  by_cases h : 6 < n
  · exact controlRegister_above _ h
  · interval_cases n <;> simp [State.controlRegister, keyStateCode, ctStateCode, paramsCode, zeroParams]

/-- RESULT fills bits 7:0 of CR0 (R41). -/
theorem controlRegister_result (s : State) :
    (s.controlRegister 0).extractLsb' 0 8 = s.result ∧ (s.controlRegister 0).extractLsb' 8 24 = 0 := by
  constructor <;> ext i hi
  · simp [State.controlRegister, hi, show i < 32 by omega]
  · simp [State.controlRegister]

/-- `G.seeded` is bit 0 of CR6 (R43). -/
theorem controlRegister_seeded (s : State) :
    (s.controlRegister 6).getLsbD 0 = s.g.seeded ∧ (s.controlRegister 6).extractLsb' 1 31 = 0 := by
  cases hg : s.g.seeded <;> simp [State.controlRegister, hg]

/-- Settles O9: each register is a word of codes, of which `extractLsb'_stateWord` reads one, or a
single field. -/
theorem controlRegistersViewTheState : Obligations.ControlRegistersViewTheState := fun s =>
  ⟨controlRegister_result s,
    fun i => ⟨extractLsb'_stateWord _ i, extractLsb'_stateWord _ i, extractLsb'_stateWord _ i,
      extractLsb'_stateWord _ i, extractLsb'_stateWord _ i⟩,
    controlRegister_seeded s, fun _ => controlRegister_above s, fun _ _ h => step_of_read h rfl,
    controlRegister_withResetValues _ _⟩

/-! ### What the host can see (10_state.md R45, 00_scope.md R6) -/

/-- The lifecycle codes, `init` bits and `G.seeded` are the same. -/
def SameCodes (s t : State) : Prop :=
  (∀ i, (t.getK i).st = (s.getK i).st) ∧ (∀ i, (t.getP i).st = (s.getP i).st) ∧
    (∀ i, (t.getPR i).init = (s.getPR i).init) ∧ (∀ i, (t.getS i).st = (s.getS i).st) ∧
    (∀ i, (t.getC i).st = (s.getC i).st) ∧ t.g.seeded = s.g.seeded

theorem hostSame_iff (s t : State) :
    HostSame s t ↔
      (t.x = s.x ∧ t.b = s.b ∧ t.result = s.result ∧ t.mem = s.mem ∧ t.memSize = s.memSize) ∧
      (t.inbox = s.inbox ∧ t.replies = s.replies ∧ t.entropy = s.entropy ∧ t.draws = s.draws) ∧
      SameCodes s t := by
  simp only [HostSame, SameCodes, samePart, List.mem_cons, List.not_mem_nil, or_false,
    forall_eq_or_imp, forall_eq]
  tauto

section HostSame

variable {s t : State}

theorem HostSame.withInbox (h : HostSame s t) (rest : List HostTx) :
    HostSame { s with inbox := rest } { t with inbox := rest } := by
  obtain ⟨parts, ⟨-, hreplies, horacle⟩, codes⟩ := (hostSame_iff s t).1 h
  exact (hostSame_iff _ _).2 ⟨parts, ⟨rfl, hreplies, horacle⟩, codes⟩

theorem HostSame.reply (h : HostSame s t) {r r' : HostReply} (hr : r' = r) :
    HostSame (s.reply r) (t.reply r') := by
  obtain ⟨parts, ⟨hinbox, hreplies, horacle⟩, codes⟩ := (hostSame_iff s t).1 h
  refine (hostSame_iff _ _).2 ⟨parts, ⟨hinbox, ?_, horacle⟩, codes⟩
  rw [State.reply_replies, State.reply_replies, hreplies, hr]

theorem HostSame.setX (h : HostSame s t) (i : XReg) (v : XWord) : HostSame (s.setX i v) (t.setX i v) := by
  obtain ⟨⟨hx, parts⟩, lists, codes⟩ := (hostSame_iff s t).1 h
  exact (hostSame_iff _ _).2 ⟨⟨congrArg (·.set i v) hx, parts⟩, lists, codes⟩

theorem HostSame.setB (h : HostSame s t) (i : BReg) (v : Block) : HostSame (s.setB i v) (t.setB i v) := by
  obtain ⟨⟨hx, hb, parts⟩, lists, codes⟩ := (hostSame_iff s t).1 h
  exact (hostSame_iff _ _).2 ⟨⟨hx, congrArg (·.set i v) hb, parts⟩, lists, codes⟩

theorem HostSame.setMem (h : HostSame s t) {m m' : Memory} (hm : m' = m) :
    HostSame (s.setMem m) (t.setMem m') := by
  obtain ⟨⟨hx, hb, hresult, -, hsize⟩, lists, codes⟩ := (hostSame_iff s t).1 h
  exact (hostSame_iff _ _).2 ⟨⟨hx, hb, hresult, hm, hsize⟩, lists, codes⟩

/-- After `Reset()` the two engines differ in nothing. -/
theorem HostSame.hostReset (h : HostSame s t) : HostSame s.hostReset t.hostReset := by
  obtain ⟨⟨-, -, -, hmem, hsize⟩, ⟨hinbox, hreplies, hentropy, hdraws⟩, -⟩ := (hostSame_iff s t).1 h
  have hsame : t.hostReset = s.hostReset := by
    simp only [State.hostReset, hmem, hsize, hinbox, hreplies, hentropy, hdraws]
  rw [hsame]
  exact (hostSame_iff _ _).2 (by simp [SameCodes])

/-- A control register shows RESULT, the codes and `G.seeded` only. -/
theorem HostSame.controlRegister (h : HostSame s t) (n : Nat) :
    t.controlRegister n = s.controlRegister n := by
  obtain ⟨⟨-, -, hresult, -⟩, -, ⟨hk, hp, hpr, hsk, hct, hg⟩⟩ := (hostSame_iff s t).1 h
  by_cases hn : 6 < n
  · rw [controlRegister_above t hn, controlRegister_above s hn]
  · interval_cases n <;> simp only [State.controlRegister, paramsCode, hresult, hk, hp, hpr, hsk, hct, hg]

/-- A transaction other than `Issue` keeps two such engines alike, or both engines refuse it. -/
theorem HostSame.transact (h : HostSame s t) {tx : HostTx} (htx : ∀ w, tx ≠ .issue w) :
    (∃ s' t', transactWith exec tx s = .next s' ∧ transactWith exec tx t = .next t' ∧ HostSame s' t') ∨
      (transactWith exec tx s = .refused .hostRangeOutsideMemory ∧
        transactWith exec tx t = .refused .hostRangeOutsideMemory) := by
  obtain ⟨⟨hx, hb, -, hmem, hsize⟩, -, -⟩ := (hostSame_iff s t).1 h
  cases tx with
  | issue w => exact absurd rfl (htx w)
  | readX i => exact .inl ⟨_, _, rfl, rfl, h.reply (by rw [State.getX, State.getX, hx])⟩
  | writeX i v => exact .inl ⟨_, _, rfl, rfl, h.setX i v⟩
  | readB i => exact .inl ⟨_, _, rfl, rfl, h.reply (by rw [State.getB, State.getB, hb])⟩
  | writeB i v => exact .inl ⟨_, _, rfl, rfl, h.setB i v⟩
  | readMem a n =>
    by_cases hr : s.inRange a n
    · have hr' : t.inRange a n := by rwa [State.inRange, hsize]
      exact .inl ⟨_, _, if_pos hr, if_pos hr', h.reply (by rw [hmem])⟩
    · have hr' : ¬ t.inRange a n := by rwa [State.inRange, hsize]
      exact .inr ⟨if_neg hr, if_neg hr'⟩
  | writeMem a bytes =>
    by_cases hr : s.inRange a bytes.length
    · have hr' : t.inRange a bytes.length := by rwa [State.inRange, hsize]
      exact .inl ⟨_, _, if_pos hr, if_pos hr', h.setMem (by rw [hmem])⟩
    · have hr' : ¬ t.inRange a bytes.length := by rwa [State.inRange, hsize]
      exact .inr ⟨if_neg hr, if_neg hr'⟩
  | readCR n => exact .inl ⟨_, _, rfl, rfl, h.reply (by rw [h.controlRegister])⟩
  | reset => exact .inl ⟨_, _, rfl, rfl, h.hostReset⟩

end HostSame

/-- Settles O11: both engines take the same transaction, which answers from the parts they share. -/
theorem hostCannotTellKeysApart : Obligations.HostCannotTellKeysApart := by
  intro s t tx rest h hs htx
  obtain ⟨-, ⟨hinbox, -⟩, -⟩ := (hostSame_iff s t).1 h
  rw [step_of_inbox hs, step_of_inbox (hinbox.trans hs)]
  exact (h.withInbox rest).transact htx

end Sys2Proof.Machine

/-! PROOF. `MemRead` and `MemWrite` byte by byte, and what one step does to the host's lists, to
MEM_SIZE and to RESULT. -/

namespace Sys2Proof.Machine

/-! ### Big-endian access (20_memory.md R53, R54) -/

/-- `n` bytes make a number below `256^n`. -/
theorem be_lt (l : List Byte) : be l < 256 ^ l.length := by
  induction l with
  | nil => simp [be]
  | cons c rest ih =>
    have hc : c.toNat < 256 := c.isLt
    calc be (c :: rest) = c.toNat * 256 ^ rest.length + be rest := be_cons c rest
      _ < (c.toNat + 1) * 256 ^ rest.length := by linarith
      _ ≤ 256 ^ (c :: rest).length := by
        rw [List.length_cons, pow_succ']
        exact Nat.mul_le_mul_right _ hc

/-- The digits of `BE` in base 256 are the bytes, the first one the most significant. -/
theorem be_digit (l : List Byte) {k : Nat} (hk : k < l.length) :
    be l / 256 ^ (l.length - 1 - k) % 256 = l[k].toNat := by
  have hlow := be_lt (l.drop (k + 1))
  have split : be l = be (l.drop (k + 1)) +
      256 ^ (l.drop (k + 1)).length * (be (l.take k) * 256 + l[k].toNat) := by
    conv_lhs => rw [← List.take_append_drop k l, List.drop_eq_getElem_cons hk, be_append, be_cons]
    rw [List.length_cons]
    ring
  rw [show l.length - 1 - k = (l.drop (k + 1)).length by rw [List.length_drop]; omega, split,
    Nat.add_mul_div_left _ _ (by positivity), Nat.div_eq_of_lt hlow, Nat.zero_add,
    Nat.mul_add_mod_of_lt l[k].isLt]

/-- Byte `k` of a block as a digit of its value (00_scope.md R12). -/
theorem blockByte_toNat (b : Block) {k : Nat} (hk : k < 16) :
    (blockByte b k).toNat = b.toNat / 256 ^ (15 - k) % 256 := by
  have hshift : 120 - 8 * k = 8 * (15 - k) := by omega
  rw [blockByte, BitVec.extractLsb'_toNat, Nat.shiftRight_eq_div_pow, hshift, pow_mul]
  norm_num

/-- The block made of sixteen bytes has them as its bytes. -/
theorem blockByte_blk_be {l : List Byte} (hl : l.length = 16) {k : Nat} (hk : k < l.length) :
    blockByte (blk (be l)) k = l[k] := by
  have hsmall : be l < 2 ^ 128 := by simpa [hl] using be_lt l
  apply BitVec.eq_of_toNat_eq
  rw [blockByte_toNat _ (hl ▸ hk), blk, BitVec.toNat_ofNat, Nat.mod_eq_of_lt hsmall, ← be_digit l hk, hl]

theorem Memory.blockByte_readBlock (m : Memory) (a : Nat) {k : Nat} (hk : k < 16) :
    blockByte (m.readBlock a) k = m.read (a + k) := by
  have hlen := m.bytes_length a 16
  rw [Memory.readBlock, Memory.readBE, blockByte_blk_be hlen (by omega), Memory.getElem_bytes]

/-- `be_eq_sum` for a string whose length is known under another name. -/
theorem be_eq_sum_of_length {l : List Byte} {n : Nat} (hl : l.length = n) :
    be l = ∑ k : Fin n, (l[k]'(hl ▸ k.isLt)).toNat * 256 ^ (n - 1 - k) := by
  subst hl
  exact be_eq_sum l

theorem Memory.readBE_eq_sum (m : Memory) (a n : Nat) :
    m.readBE a n = ∑ k : Fin n, (m.read (a + k)).toNat * 256 ^ (n - 1 - k) := by
  rw [Memory.readBE, be_eq_sum_of_length (m.bytes_length a n)]
  simp [Memory.getElem_bytes]

/-- `MemRead` reads the low `n` bytes of what `MemWrite` was given. -/
theorem Memory.readBE_writeBE {m : Memory} (h : m.wf = true) (a n v : Nat) :
    (m.writeBE a n v).readBE a n = v % 256 ^ n := by
  have hbytes := bytes_writeBytes h a (toBE v n)
  rw [toBE_length] at hbytes
  rw [Memory.readBE, Memory.writeBE, hbytes, be_toBE]

/-- Inside the write, byte `a + k` is the digit of its place. -/
theorem Memory.read_writeBE_inside {m : Memory} (h : m.wf = true) (a v : Nat) {n k : Nat} (hk : k < n) :
    ((m.writeBE a n v).read (a + k)).toNat = v / 256 ^ (n - 1 - k) % 256 := by
  rw [Memory.writeBE, read_writeBytes_inside h a _ k (by simpa using hk)]
  simp [toBE]

theorem Memory.read_writeBE_outside (m : Memory) (v : Nat) {a n c : Nat} (hc : c < a ∨ a + n ≤ c) :
    (m.writeBE a n v).read c = m.read c :=
  read_writeBytes_outside m _ (by simpa using hc)

/-- Settles O13, from the digits of a byte string and the laws of stored byte strings. -/
theorem memoryIsBigEndian : Obligations.MemoryIsBigEndian :=
  ⟨Memory.readBE_eq_sum, fun m a k => m.blockByte_readBlock a k.isLt, fun m a n v hwf hv =>
    ⟨(Memory.readBE_writeBE hwf a n v).trans (Nat.mod_eq_of_lt hv),
      fun _ hk => Memory.read_writeBE_inside hwf a v hk, fun _ hc => m.read_writeBE_outside v hc⟩⟩

/-! ### The code a command ends with (60_exceptions.md R290, R292) -/

theorem prpSingle_result (s : State) (f : PrpKeys → Nat → Nat → Nat) (xd : XReg) (ps : PReg)
    (xs xn : XReg) : (s.prpSingle f xd ps xs xn).result ∈ [0, 3, 2] := by
  simp only [State.prpSingle]
  split_ifs <;> simp [resultNumber]

theorem prpTable_result (s : State) (f : PrpKeys → Nat → Nat → Nat) (ps : PReg) (xdst xn : XReg) :
    (s.prpTable f ps xdst xn).result ∈ [0, 3, 2, 9] := by
  simp only [State.prpTable]
  split_ifs <;> simp [resultNumber]

theorem blockSize_result (s : State) (len : Nat → Nat → Nat) (xd : XReg) (prs : PrReg) :
    (s.blockSize len xd prs).result ∈ [0, 2] := by
  rw [State.blockSize]
  split_ifs <;> simp [resultNumber]

theorem bindCiphertext_result (s : State) (st : CtState) (cd : CReg) (prs : PrReg) (xaddr : XReg) :
    (s.bindCiphertext st cd prs xaddr).result ∈ [0, 2, 7] := by
  rw [State.bindCiphertext]
  split_ifs <;> simp [resultNumber]

/-- A command ends with a code of its row of R292. -/
theorem exec_result_mem {i : Instr} {s t : State} (h : exec i s = .next t) : t.result ∈ resultCodes i := by
  cases i <;> obtain rfl := Host.Outcome.next.inj h
  -- straight-line commands
  case nop | li | lih | mkb | xbh | xbl | kexp | ro | gseed => simp [resultCodes]
  -- a chain of checks, each with its own code
  case ldb | stb | kexpm | kclr | aese | aesem | prf | prfm | rom | pkexp | pclr | pinitb | pinitl |
      csize | skset | sclr | cclr | oreenc | orecmp =>
    dsimp only [resultCodes]
    split_ifs <;> simp [resultNumber]
  case prpe | prpd => exact prpSingle_result _ _ _ _ _ _
  case prpea | prpda => exact prpTable_result _ _ _ _ _
  case cszl | cszr => exact blockSize_result _ _ _ _
  case cinit | cload => exact bindCiphertext_result _ _ _ _ _
  -- commands that also turn on an answer of the oracle or on a comparison
  case kgen | setup | gnext | obenc | obcmp =>
    dsimp only [resultCodes]
    repeat' split
    all_goals simp [resultNumber]

/-- Every code of R292 is one of 0 to 10. -/
theorem toNat_le_of_mem_resultCodes {i : Instr} {c : BitVec 8} (h : c ∈ resultCodes i) : c.toNat ≤ 10 := by
  revert c
  cases i <;> simp [resultCodes]

/-! ### One transaction (20_memory.md R62) -/

/-- What performing a transaction leaves of the host's lists, of MEM_SIZE and of RESULT. -/
structure State.Answers (s t : State) : Prop where
  inbox : t.inbox = s.inbox
  memSize : t.memSize = s.memSize
  replies : t.replies = s.replies ∨ ∃ r, t.replies = s.replies ++ [r]
  result : ResultLegal s → ResultLegal t

theorem State.Answers.of_same {s t : State} (hinbox : t.inbox = s.inbox) (hsize : t.memSize = s.memSize)
    (hreplies : t.replies = s.replies) (hresult : ResultLegal s → ResultLegal t) : s.Answers t :=
  ⟨hinbox, hsize, .inl hreplies, hresult⟩

/-- Returning a value after a command or a read that kept the lists. -/
theorem State.Answers.of_reply {s u : State} (r : HostReply) (hinbox : u.inbox = s.inbox)
    (hsize : u.memSize = s.memSize) (hreplies : u.replies = s.replies)
    (hresult : ResultLegal s → ResultLegal u) : s.Answers (u.reply r) :=
  ⟨hinbox, hsize, .inr ⟨r, congrArg (· ++ [r]) hreplies⟩, hresult⟩

/-- No command may write the host's lists or MEM_SIZE (10_state.md R45). -/
theorem not_mem_writableParts (i : Instr) :
    .inbox ∉ writableParts i ∧ .memSize ∉ writableParts i ∧ .replies ∉ writableParts i := by
  cases i <;> simp [writableParts]

/-- A command and the return of its code. -/
theorem answers_of_exec {i : Instr} {s u : State} (h : exec i s = .next u) :
    s.Answers (u.reply (.code u.result)) := by
  have frame := exec_changesOnly h
  obtain ⟨hinbox, hsize, hreplies⟩ := not_mem_writableParts i
  exact .of_reply _ (frame _ hinbox) (frame _ hsize) (frame _ hreplies)
    fun _ => toNat_le_of_mem_resultCodes (exec_result_mem h)

/-- An access that is refused outside its range answers the state it has inside. -/
theorem eq_of_ite_next {p : Prop} [Decidable p] {u t : State} {r : Refusal}
    (h : (if p then .next u else .refused r : Host.Outcome State Fault Refusal) = .next t) : u = t := by
  split at h
  · exact Host.Outcome.next.inj h
  · nomatch h

theorem answers_of_transact {tx : HostTx} {s t : State} (hs : transactWith exec tx s = .next t) :
    s.Answers t := by
  cases tx with
  | issue w =>
    rcases issueWith_next hs with ⟨i, u, -, hu, rfl⟩ | rfl
    · exact answers_of_exec hu
    · exact .of_reply _ rfl rfl rfl fun _ => le_refl 10
  | readX i | readB i | readCR n =>
    obtain rfl := Host.Outcome.next.inj hs
    exact .of_reply _ rfl rfl rfl id
  | writeX i v | writeB i v =>
    obtain rfl := Host.Outcome.next.inj hs
    exact .of_same rfl rfl rfl id
  | readMem a n =>
    obtain rfl := eq_of_ite_next hs
    exact .of_reply _ rfl rfl rfl id
  | writeMem a bytes =>
    obtain rfl := eq_of_ite_next hs
    exact .of_same rfl rfl rfl id
  | reset =>
    obtain rfl := Host.Outcome.next.inj hs
    exact .of_same rfl rfl rfl fun _ => Nat.zero_le 10

/-- Settles O12: an engine without transactions waits, another performs the first of them. -/
theorem stepTakesOneTransaction : Obligations.StepTakesOneTransaction := by
  intro s t hs
  cases hin : s.inbox with
  | nil =>
    rw [step_of_inbox_nil hin] at hs
    obtain rfl := Host.Outcome.next.inj hs
    exact ⟨hin, rfl, .inl rfl, id⟩
  | cons tx rest =>
    rw [step_of_inbox hin] at hs
    obtain ⟨hinbox, hsize, hreplies, hresult⟩ := answers_of_transact hs
    exact ⟨hinbox, hsize, hreplies, hresult⟩

end Sys2Proof.Machine

/-! PROOF. The decoder against the tables and the encoder (30_encoding.md R70 to R76, R83), and what an
`Issue` of a legal and of an illegal word does. -/

namespace Sys2Proof

/-! ### Words that a format's mask selects (R72) -/

/-- A field that a mask covers whole holds what a matching word must hold there. -/
theorem extractLsb'_of_and_eq {w mask v : CommandWord} {k n : Nat} (h : w &&& mask = v)
    (hmask : mask.extractLsb' k n = BitVec.allOnes n) : w.extractLsb' k n = v.extractLsb' k n := by
  rw [← h, BitVec.extractLsb'_and, hmask, BitVec.and_allOnes]

/-- The operand bits of `op << 24` are zero. -/
theorem extractLsb'_formatMatch (op : BitVec 8) {k n : Nat} (h : k + n ≤ 24) :
    (formatMatch op).extractLsb' k n = 0 := by
  apply BitVec.eq_of_getLsbD_eq
  intro i hi
  have hlow : k + i < 24 := by omega
  simp [formatMatch, hlow]

theorem fieldOp_formatMatch (op : BitVec 8) : fieldOp (formatMatch op) = op := by
  apply BitVec.eq_of_getLsbD_eq
  intro i hi
  have hword : 24 + i < 32 := by omega
  simp [fieldOp, formatMatch, hi, hword]

section Selected

variable {w : CommandWord} {op : BitVec 8} {fmt : Format}

/-- Every format's mask covers the opcode. -/
theorem fieldOp_of_match (h : w &&& formatMask fmt = formatMatch op) : fieldOp w = op :=
  calc fieldOp w = fieldOp (formatMatch op) := extractLsb'_of_and_eq h (by cases fmt <;> rfl)
    _ = op := fieldOp_formatMatch op

/-- A must-be-zero field, one that the mask covers below the opcode, is zero in a matching word. -/
theorem mbz_of_match (h : w &&& formatMask fmt = formatMatch op) {k n : Nat}
    (hmask : (formatMask fmt).extractLsb' k n = BitVec.allOnes n) (hlow : k + n ≤ 24 := by decide) :
    w.extractLsb' k n = 0#n :=
  (extractLsb'_of_and_eq h hmask).trans (extractLsb'_formatMatch op hlow)

/-- The same of an operand field, read as a register index. -/
theorem fieldIndex_of_match (h : w &&& formatMask fmt = formatMatch op) {k : Nat}
    (hmask : (formatMask fmt).extractLsb' k 4 = BitVec.allOnes 4) (hlow : k + 4 ≤ 24 := by decide) :
    fieldIndex (w.extractLsb' k 4) = 0 :=
  congrArg fieldIndex (mbz_of_match h hmask hlow)

end Selected

/-! ### Packing the fields of a word again (R70, R83) -/

theorem ofNat_fieldIndex (f : BitVec 4) : BitVec.ofNat 4 (fieldIndex f) = f := by
  simp [fieldIndex]

/-- A word with field `f` zero is packed from its opcode and its operand fields. -/
theorem packR_of_fields {w : CommandWord} {a b c d e : Fin 16} (ha : fieldA w = a) (hb : fieldB w = b)
    (hc : fieldC w = c) (hd : fieldD w = d) (he : fieldE w = e) (hf : w.extractLsb' 0 4 = 0#4) :
    packR (fieldOp w) a b c d e = w := by
  subst ha hb hc hd he
  calc packR (fieldOp w) (fieldA w) (fieldB w) (fieldC w) (fieldD w) (fieldE w)
      = w.extractLsb' 24 8 ++ w.extractLsb' 20 4 ++ w.extractLsb' 16 4 ++ w.extractLsb' 12 4 ++
          w.extractLsb' 8 4 ++ w.extractLsb' 4 4 ++ w.extractLsb' 0 4 := by
        simp only [packR, fieldOp, fieldA, fieldB, fieldC, fieldD, fieldE, ofNat_fieldIndex, hf]
    _ = w.extractLsb' 0 32 := by
        iterate 6 rw [BitVec.extractLsb'_append_extractLsb'_eq_extractLsb']
        all_goals rfl
    _ = w := BitVec.extractLsb'_eq_self

/-- A word with field `b` zero is packed from its opcode, its first operand and its immediate. -/
theorem packI_fields {w : CommandWord} (hb : w.extractLsb' 16 4 = 0#4) :
    packI (fieldOp w) (fieldA w) (fieldImm w) = w := by
  calc packI (fieldOp w) (fieldA w) (fieldImm w)
      = w.extractLsb' 24 8 ++ w.extractLsb' 20 4 ++ w.extractLsb' 16 4 ++ w.extractLsb' 0 16 := by
        simp only [packI, fieldOp, fieldA, fieldImm, ofNat_fieldIndex, hb]
    _ = w.extractLsb' 0 32 := by
        iterate 3 rw [BitVec.extractLsb'_append_extractLsb'_eq_extractLsb']
        all_goals rfl
    _ = w := BitVec.extractLsb'_eq_self

/-- The word that a format makes of an opcode and the operand fields of `w`: the fields the format does
not name are 0 (R83). -/
def repack (op : BitVec 8) (w : CommandWord) : Format → CommandWord
  | .z => packR op 0 0 0 0 0
  | .i => packI op (fieldA w) (fieldImm w)
  | .r1 => packR op (fieldA w) 0 0 0 0
  | .r2 => packR op (fieldA w) (fieldB w) 0 0 0
  | .r3 => packR op (fieldA w) (fieldB w) (fieldC w) 0 0
  | .r4 => packR op (fieldA w) (fieldB w) (fieldC w) (fieldD w) 0
  | .r5 => packR op (fieldA w) (fieldB w) (fieldC w) (fieldD w) (fieldE w)

/-- A word that a format's mask selects loses nothing when it is packed again. -/
theorem repack_of_match {w : CommandWord} {op : BitVec 8} {fmt : Format}
    (h : w &&& formatMask fmt = formatMatch op) : repack op w fmt = w := by
  obtain rfl := fieldOp_of_match h
  cases fmt with
  | z =>
    exact packR_of_fields (fieldIndex_of_match h rfl) (fieldIndex_of_match h rfl)
      (fieldIndex_of_match h rfl) (fieldIndex_of_match h rfl) (fieldIndex_of_match h rfl)
      (mbz_of_match h rfl)
  | i => exact packI_fields (mbz_of_match h rfl)
  | r1 =>
    exact packR_of_fields rfl (fieldIndex_of_match h rfl) (fieldIndex_of_match h rfl)
      (fieldIndex_of_match h rfl) (fieldIndex_of_match h rfl) (mbz_of_match h rfl)
  | r2 =>
    exact packR_of_fields rfl rfl (fieldIndex_of_match h rfl) (fieldIndex_of_match h rfl)
      (fieldIndex_of_match h rfl) (mbz_of_match h rfl)
  | r3 =>
    exact packR_of_fields rfl rfl rfl (fieldIndex_of_match h rfl) (fieldIndex_of_match h rfl)
      (mbz_of_match h rfl)
  | r4 => exact packR_of_fields rfl rfl rfl rfl (fieldIndex_of_match h rfl) (mbz_of_match h rfl)
  | r5 => exact packR_of_fields rfl rfl rfl rfl rfl (mbz_of_match h rfl)

/-! ### The decoder and the opcode map (R72, R75) -/

/-- A row of the opcode map makes of a word's fields the command that these fields encode. -/
theorem encode_build {op : Nat} {fmt : Format} {build : CommandWord → Instr}
    (h : opcodeRow op = some (fmt, build)) (w : CommandWord) :
    encode (build w) = repack (BitVec.ofNat 8 op) w fmt := by
  unfold opcodeRow at h
  split at h <;> cases h <;> rfl

/-- A word decodes to a command exactly when a row of the opcode map selects it and makes that command. -/
theorem decode_eq_ok_iff {w : CommandWord} {i : Instr} :
    decode w = .ok i ↔ ∃ op : BitVec 8, ∃ fmt build, opcodeRow op.toNat = some (fmt, build) ∧
      w &&& formatMask fmt = formatMatch op ∧ build w = i := by
  constructor
  · intro h
    unfold decode at h
    split at h
    · nomatch h
    · next fmt build hrow =>
      split at h
      · next hmatch => exact ⟨_, fmt, build, hrow, hmatch, Except.ok.inj h⟩
      · nomatch h
  · rintro ⟨op, fmt, build, hrow, hmatch, rfl⟩
    have hop := fieldOp_of_match hmatch
    simp [decode, hop, hrow, hmatch]

/-- The encoder writes back the word that the decoder read. -/
theorem encode_of_decode {w : CommandWord} {i : Instr} (h : decode w = .ok i) : encode i = w := by
  obtain ⟨op, fmt, build, hrow, hmatch, rfl⟩ := decode_eq_ok_iff.1 h
  calc encode (build w) = repack (BitVec.ofNat 8 op.toNat) w fmt := encode_build hrow w
    _ = repack op w fmt := by rw [BitVec.ofNat_toNat, BitVec.setWidth_eq]
    _ = w := repack_of_match hmatch

/-- Settles O1: the decoder reads back what the encoder writes, and the encoder what the decoder read. -/
theorem decodeAndEncodeAgree : Obligations.DecodeAndEncodeAgree := fun _ i =>
  ⟨fun h => (encode_of_decode h).symm, fun h => h ▸ decode_encode i⟩

/-- Settles O2, from the words of the two packings as sums of their shifted fields. -/
theorem encodeFollowsTheOpcodeMap : Obligations.EncodeFollowsTheOpcodeMap := by
  refine ⟨packR_eq_wordR .., fun xd imm => ⟨packI_eq_wordI .., packI_eq_wordI ..⟩, fun a => ?r1,
    fun a b => ?r2, fun a b c => ?r3, fun a b c d => ?r4, fun a b c d e => packR_eq_wordR ..⟩
  case r1 | r2 | r3 | r4 => and_intros <;> exact packR_eq_wordR ..

end Sys2Proof

namespace Sys2Proof.Machine

/-! ### Legal words (R72, R76) -/

/-- Every row of R75's table is a row of the opcode map, with the mask of its format. -/
theorem opcodeRow_of_mem_commandTable {row : BitVec 8 × CommandWord} (h : row ∈ commandTable) :
    ∃ fmt build, opcodeRow row.1.toNat = some (fmt, build) ∧ row.2 = formatMask fmt := by
  have hrows : commandTable.all (fun row => (opcodeRow row.1.toNat).map (formatMask ·.1) == some row.2) := by
    decide
  have hmap := eq_of_beq (List.all_eq_true.1 hrows row h)
  obtain ⟨⟨fmt, build⟩, hrow, hmask⟩ := Option.map_eq_some_iff.1 hmap
  exact ⟨fmt, build, hrow, hmask.symm⟩

/-- Every row of the opcode map is a row of R75's table. -/
theorem mem_commandTable_of_opcodeRow {op : Nat} {fmt : Format} {build : CommandWord → Instr}
    (h : opcodeRow op = some (fmt, build)) : (BitVec.ofNat 8 op, formatMask fmt) ∈ commandTable := by
  unfold opcodeRow at h
  split at h <;> cases h <;> decide

/-- Settles O3: the opcode map and the table of R75 have the same rows. -/
theorem legalWordsAreTheTableRows : Obligations.LegalWordsAreTheTableRows := by
  intro w
  constructor
  · rintro ⟨i, h⟩
    obtain ⟨op, fmt, build, hrow, hmatch, -⟩ := decode_eq_ok_iff.1 h
    have hmem := mem_commandTable_of_opcodeRow hrow
    rw [BitVec.ofNat_toNat, BitVec.setWidth_eq] at hmem
    exact ⟨_, hmem, hmatch⟩
  · rintro ⟨⟨op, mask⟩, hmem, hmatch⟩
    obtain ⟨fmt, build, hrow, rfl⟩ := opcodeRow_of_mem_commandTable hmem
    exact ⟨build w, decode_eq_ok_iff.2 ⟨op, fmt, build, hrow, hmatch, rfl⟩⟩

/-! ### Issuing a word (R71, R76) -/

section Issue

variable {s t : State} {w : CommandWord} {rest : List HostTx}

/-- A step that issues the word of a command executes it and returns its code. -/
theorem step_of_issue {i : Instr} (hs : s.inbox = .issue w :: rest) (hw : decode w = .ok i)
    (ht : exec i { s with inbox := rest } = .next t) : step s = .next (t.reply (.code t.result)) := by
  rw [step_of_inbox hs]
  simp only [transactWith, issueWith, hw, ht, issueReply]

/-- A step that issues an illegal word returns `E_ILLEGAL`. -/
theorem step_of_illegal (hs : s.inbox = .issue w :: rest) (hw : ¬ LegalWord w) :
    step s = .next ((State.raise { s with inbox := rest } .illegal).reply (.code 10)) := by
  rw [step_of_inbox hs]
  cases hd : decode w with
  | ok i => exact absurd ((legalWordsAreTheTableRows w).1 ⟨i, hd⟩) hw
  | error e =>
    simp only [transactWith, issueWith, hd]
    rfl

end Issue

theorem decodeTableWord_eq_some_iff {nbits w : Nat} {i : Instr} :
    decodeTableWord nbits w = some i ↔ decode (tableWord nbits w) = .ok i := by
  unfold decodeTableWord
  cases decode (tableWord nbits w) <;> simp

/-- Settles O4: the frame of `raise`, beside the two lists of the host. -/
theorem illegalWordOnlySetsResult : Obligations.IllegalWordOnlySetsResult := by
  intro s w rest hw hs
  refine ⟨_, step_of_illegal hs hw, rfl, rfl, rfl, fun q hq => ?_⟩
  cases q <;> simp_all [samePart]

/-- Settles O6: `withFetchWord` puts the `Issue` first, so the second part is a case of the first. -/
theorem stepRunsTheDecodedCommand : Obligations.StepRunsTheDecodedCommand :=
  ⟨fun _ _ _ _ _ hs hw ht => step_of_issue hs hw ht,
    fun _ _ _ _ _ hw ht => step_of_issue rfl (decodeTableWord_eq_some_iff.1 hw) ht⟩

end Sys2Proof.Machine

/-! PROOF. The two pseudo-instructions of the assembler: the words of their lines, and what the commands
leave (30_encoding.md R84, R85). -/

namespace Sys2Proof

/-! ### Lines that assemble (R81, R82, R83) -/

@[simp] theorem AsmOperand.check_reg (file : RegisterFile) (r : Fin 16) :
    (AsmOperand.reg file r).check (.reg file) = .ok () := by
  simp [AsmOperand.check]

@[simp] theorem AsmOperand.check_imm {bits : Nat} (v : BitVec bits) :
    (AsmOperand.imm v.toNat).check (.imm bits) = .ok () :=
  if_pos v.isLt

theorem checkAll_nil : AsmOperand.checkAll [] [] = .ok () := rfl

theorem checkAll_cons {o : AsmOperand} {k : OperandKind} (h : o.check k = .ok ())
    (os : List AsmOperand) (ks : List OperandKind) :
    AsmOperand.checkAll (o :: os) (k :: ks) = AsmOperand.checkAll os ks := by
  rw [AsmOperand.checkAll, h]
  rfl

/-- A well-formed line assembles to the words of its commands. -/
theorem assemble_of_wellFormed {l : AsmLine} (h : l.WellFormed) :
    assemble l =
      .ok ((lineCommands l.mnemonic fun k => (l.operands.map operandValue).getD k 0).map encode) := by
  rw [assemble, h]

theorem assemble_li64 (xd : XReg) (v : XWord) :
    assemble { mnemonic := .LI64, operands := [.reg .x xd, .imm v.toNat] } =
      .ok ((expandLi64 xd v).map encode) := by
  have wellFormed : AsmLine.WellFormed { mnemonic := .LI64, operands := [.reg .x xd, .imm v.toNat] } := by
    simp [AsmLine.WellFormed, AsmLine.check, Mnemonic.signature, checkAll_cons, checkAll_nil]
  rw [assemble_of_wellFormed wellFormed]
  simp [lineCommands, operandValue]

theorem assemble_lb128 (bd : BReg) (xt xu : XReg) (v : Block) :
    assemble { mnemonic := .LB128, operands := [.reg .b bd, .reg .x xt, .reg .x xu, .imm v.toNat] } =
      .ok ((expandLb128 bd xt xu v).map encode) := by
  have wellFormed : AsmLine.WellFormed
      { mnemonic := .LB128, operands := [.reg .b bd, .reg .x xt, .reg .x xu, .imm v.toNat] } := by
    simp [AsmLine.WellFormed, AsmLine.check, Mnemonic.signature, checkAll_cons, checkAll_nil]
  rw [assemble_of_wellFormed wellFormed]
  simp [lineCommands, operandValue]

end Sys2Proof

namespace Sys2Proof.Machine

/-! ### Command lists -/

theorem runCommands_cons {i : Instr} {s t : State} (h : exec i s = .next t) (rest : List Instr) :
    runCommands (i :: rest) s = runCommands rest t := by
  rw [runCommands, h]

theorem runCommands_append {l l' : List Instr} {s t : State} (h : runCommands l s = some t) :
    runCommands (l ++ l') s = runCommands l' t := by
  induction l generalizing s with
  | nil => rw [List.nil_append, Option.some.inj h]
  | cons i rest ih =>
    rw [List.cons_append]
    cases hi : exec i s with
    | next u =>
      rw [runCommands_cons hi] at h ⊢
      exact ih h
    | fault r => nomatch r
    | refused r => simp [runCommands, hi] at h

/-! ### A constant, sixteen bits at a time (40_data_movement.md R91, R92) -/

/-- Of two commands that complete with writes of the same X register, the last one counts. -/
theorem setX_done_setX_done (s : State) (xd : XReg) (u v : XWord) :
    ((s.setX xd u).done.setX xd v).done = (s.setX xd v).done := by
  simp [State.setX, State.done]

/-- Shifting the bits of `v` above `k + 16` left by 16 and filling in the next 16 gives those above `k`. -/
theorem shiftLeft_or_extractLsb' (v : XWord) (k : Nat) :
    (v >>> (k + 16)) <<< 16 ||| (v.extractLsb' k 16).zeroExtend 64 = v >>> k := by
  apply BitVec.eq_of_getLsbD_eq
  intro i hi
  by_cases hlow : i < 16
  · simp [hlow, hi]
  · have hhigh : k + 16 + (i - 16) = k + i := by omega
    simp [hlow, hi, hhigh]

/-- LI with the top sixteen bits of a constant. -/
theorem exec_li_top (s : State) (xd : XReg) (v : XWord) :
    exec (.li xd (v.extractLsb' 48 16)) s = .next (s.setX xd (v >>> 48)).done := by
  have htop : (v.extractLsb' 48 16).zeroExtend 64 = v >>> 48 := by
    have hout : v >>> (48 + 16) = 0#64 := BitVec.ushiftRight_eq_zero (by decide)
    simpa [hout] using shiftLeft_or_extractLsb' v 48
  rw [← htop]
  rfl

/-- LIH with the next sixteen bits of a constant whose bits above them are loaded. -/
theorem exec_lih_next (s : State) (xd : XReg) (v : XWord) (k : Nat) :
    exec (.lih xd (v.extractLsb' k 16)) (s.setX xd (v >>> (k + 16))).done =
      .next (s.setX xd (v >>> k)).done := by
  rw [exec, execLih, State.done_getX, State.setX_getX_self, shiftLeft_or_extractLsb',
    setX_done_setX_done]

/-- The commands of LI64 leave the constant and nothing else (R84). -/
theorem runCommands_expandLi64 (s : State) (xd : XReg) (v : XWord) :
    runCommands (expandLi64 xd v) s = some (s.setX xd v).done := by
  rw [expandLi64, runCommands_cons (exec_li_top s xd v), runCommands_cons (exec_lih_next s xd v 32),
    runCommands_cons (exec_lih_next s xd v 16), runCommands_cons (exec_lih_next s xd v 0),
    runCommands, BitVec.ushiftRight_zero]

/-- MKB of the two halves of a constant (40_data_movement.md R93). -/
theorem exec_mkb_halves {s : State} {xt xu : XReg} {v : Block} (bd : BReg)
    (hhigh : s.getX xt = v.extractLsb' 64 64) (hlow : s.getX xu = v.extractLsb' 0 64) :
    exec (.mkb bd xt xu) s = .next (s.setB bd v).done := by
  have halves : pair (s.natX xt) (s.natX xu) = v := by
    rw [pair, State.natX, State.natX, hhigh, hlow, BitVec.ofNat_toNat, BitVec.ofNat_toNat,
      BitVec.setWidth_eq, BitVec.setWidth_eq]
    exact (BitVec.extractLsb'_append_extractLsb'_eq_extractLsb' rfl).trans BitVec.extractLsb'_eq_self
  simp only [exec, execMkb, halves]

/-- The commands of LB128 leave the constant, its halves in the scratch registers, and nothing else (R85). -/
theorem runCommands_expandLb128 (s : State) (bd : BReg) {xt xu : XReg} (hne : xt ≠ xu) (v : Block) :
    runCommands (expandLb128 bd xt xu v) s =
      some ((((s.setX xt (v.extractLsb' 64 64)).done.setX xu (v.extractLsb' 0 64)).done.setB bd v).done) := by
  rw [expandLb128, List.append_assoc, runCommands_append (runCommands_expandLi64 ..),
    runCommands_append (runCommands_expandLi64 ..)]
  rw [runCommands_cons (exec_mkb_halves bd ?_ ?_), runCommands]
  · simp [State.setX_getX_ne _ _ _ _ hne]
  · simp

/-- Settles O55: each line assembles to its expansion, and the expansions' final states are known. -/
theorem pseudoInstructionsLoadConstants : Obligations.PseudoInstructionsLoadConstants := by
  refine ⟨fun s xd v => ⟨assemble_li64 xd v, _, runCommands_expandLi64 s xd v, wroteX_done s xd v⟩,
    fun s bd xt xu v hne => ⟨expandLb128 bd xt xu v, _, assemble_lb128 bd xt xu v, rfl,
      runCommands_expandLb128 s bd hne v, ?_⟩⟩
  refine ⟨by simp, fun j hj => ?block, ?high, by simp, fun j ht hu => ?others, by simp⟩
  case block => simp [State.setB_getB_ne _ _ _ _ hj]
  case high => simp [State.setX_getX_ne _ _ _ _ hne]
  case others => simp [State.setX_getX_ne _ _ _ _ ht, State.setX_getX_ne _ _ _ _ hu]

end Sys2Proof.Machine

/-! PROOF. The data-movement commands, and the words that the spec writes out (40_data_movement.md R90 to
R97). -/

namespace Sys2Proof

/-! ### Words of the table and the commands they decode to (R75, R83) -/

theorem decode_eq_ok_of_encode {w : CommandWord} {i : Instr} (h : encode i = w) : decode w = .ok i :=
  h ▸ decode_encode i

/-- The word that R83 writes for an R-format command decodes to it. -/
theorem decode_wordR {i : Instr} {op : Nat} {a b c d e : Fin 16}
    (h : encode i = packR (BitVec.ofNat 8 op) a b c d e) : decode (Machine.wordR op a b c d e) = .ok i :=
  decode_eq_ok_of_encode (h.trans (packR_eq_wordR op a b c d e))

theorem decode_wordI {i : Instr} {op : Nat} {a : Fin 16} {imm : BitVec 16}
    (h : encode i = packI (BitVec.ofNat 8 op) a imm) : decode (Machine.wordI op a imm) = .ok i :=
  decode_eq_ok_of_encode (h.trans (packI_eq_wordI op a imm))

/-- Settles O5: thirteen words are the encodings of their commands; in the last one field `f` is not 0. -/
theorem specWordsDecodeToTheirCommands : Obligations.SpecWordsDecodeToTheirCommands :=
  ⟨decode_encode .nop, decode_encode (.li 3 0x1234), decode_encode (.mkb 0 1 2),
    decode_encode (.stb 2 4), decode_encode (.kgen 3), decode_encode (.aesem 0 1 2 3),
    decode_encode (.prfm 0 1 2 3 4), decode_encode (.rom 1 2 3 0), decode_encode (.prpe 3 0 1 2),
    decode_encode (.gnext 1), decode_encode (.skset 0 1 0 1), decode_encode (.orecmp 2 0 1),
    decode_encode (.obcmp 2 1 0), rfl⟩

end Sys2Proof

namespace Sys2Proof.Machine

/-! ### Values moved between X and B (R91 to R95) -/

theorem zeroExtend_eq_ofNat (imm : BitVec 16) : imm.zeroExtend 64 = BitVec.ofNat 64 imm.toNat := by
  simp

/-- The shift drops the bits that the remainder drops. -/
theorem shiftLeft_or_zeroExtend (v : XWord) (imm : BitVec 16) :
    v <<< 16 ||| imm.zeroExtend 64 = BitVec.ofNat 64 (v.toNat * 2 ^ 16 % 2 ^ 64 ||| imm.toNat) := by
  have shifted : v <<< 16 = BitVec.ofNat 64 (v.toNat * 2 ^ 16 % 2 ^ 64) := by
    apply BitVec.eq_of_toNat_eq
    simp [Nat.shiftLeft_eq]
  rw [BitVec.ofNat_or, shifted, zeroExtend_eq_ofNat]

theorem pair_natX (s : State) (xh xl : XReg) :
    pair (s.natX xh) (s.natX xl) = s.getX xh ++ s.getX xl := by
  simp [pair, State.natX]

theorem extractLsb'_high (v : Block) : v.extractLsb' 64 64 = BitVec.ofNat 64 (v.toNat / 2 ^ 64) := by
  rw [BitVec.extractLsb', Nat.shiftRight_eq_div_pow]

theorem extractLsb'_low (v : Block) : v.extractLsb' 0 64 = BitVec.ofNat 64 (v.toNat % 2 ^ 64) := by
  apply BitVec.eq_of_toNat_eq
  simp [BitVec.extractLsb'_toNat]

/-! ### How a move ends -/

theorem ends_wroteX {i : Instr} {s : State} {xd : XReg} {u v : XWord}
    (h : exec i s = .next (s.setX xd u).done) (hv : u = v) : Ends i s (WroteX xd v s) :=
  ends_next s h (hv ▸ wroteX_done s xd u)

theorem ends_wroteB {i : Instr} {s : State} {bd : BReg} {u v : Block}
    (h : exec i s = .next (s.setB bd u).done) (hv : u = v) : Ends i s (WroteB bd v s) :=
  ends_next s h (hv ▸ wroteB_done s bd u)

/-- Settles O24: the decoder and the encoder are inverse, and NOP is the end of a command alone. -/
theorem nopOnlySetsResult : Obligations.NopOnlySetsResult :=
  ⟨fun w => decodeAndEncodeAgree w .nop, fun s => ends_next s rfl (raised_raise s .ok)⟩

/-- Settles O25: each command's word from its encoding, and its value from the lemma on that value. -/
theorem registerMoves : Obligations.RegisterMoves := by
  refine fun s => ⟨fun xd imm => ⟨decode_wordI rfl, ?li⟩, fun xd imm => ⟨decode_wordI rfl, ?lih⟩,
    fun bd xh xl => ⟨decode_wordR rfl, ?mkb⟩, fun xd bs => ⟨decode_wordR rfl, ?xbh⟩,
    fun xd bs => ⟨decode_wordR rfl, ?xbl⟩⟩
  case li => exact ends_wroteX rfl (zeroExtend_eq_ofNat imm)
  case lih => exact ends_wroteX rfl (shiftLeft_or_zeroExtend (s.getX xd) imm)
  case mkb => exact ends_wroteB rfl (pair_natX s xh xl)
  case xbh => exact ends_wroteX rfl (extractLsb'_high (s.getB bs))
  case xbl => exact ends_wroteX rfl (extractLsb'_low (s.getB bs))

/-! ### Blocks loaded and stored (R96, R97) -/

/-- Byte `k` of a stored block is read at `a + k`. -/
theorem Memory.read_writeBlock_inside {m : Memory} (h : m.wf = true) (a : Nat) (v : Block) {k : Nat}
    (hk : k < 16) : (m.writeBlock a v).read (a + k) = blockByte v k := by
  apply BitVec.eq_of_toNat_eq
  rw [Memory.writeBlock, read_writeBE_inside h a _ hk, blockByte_toNat v hk]

/-- A command that begins with a check ends as the check decides. -/
theorem ends_check {i : Instr} {s u t : State} {p q : Prop} [Decidable p] [Decidable q]
    {raised completed : State → Prop} (h : exec i s = .next (if p then u else t)) (hpq : p ↔ q)
    (hu : raised u) (ht : completed t) : if q then Ends i s raised else Ends i s completed := by
  split
  case isTrue hq => exact ⟨u, h.trans (congrArg _ (if_pos (hpq.2 hq))), hu⟩
  case isFalse hq => exact ⟨t, h.trans (congrArg _ (if_neg (mt hpq.1 hq))), ht⟩

/-- Settles O26: the block that LDB reads has the bytes of M, by `Memory.blockByte_readBlock`. -/
theorem loadBlock : Obligations.LoadBlock := by
  refine fun s bd xa => ⟨decode_wordR rfl, ends_check rfl Nat.not_le ?outside ?inside⟩
  case outside => exact raised_raise s .addr
  case inside => exact ⟨_, wroteB_done s bd _, fun k => s.mem.blockByte_readBlock _ k.isLt⟩

/-- Settles O27: what a block store leaves at its sixteen addresses and everywhere else. -/
theorem storeBlock : Obligations.StoreBlock := by
  refine fun s bs xa hwf => ⟨decode_wordR rfl, ends_check rfl Nat.not_le ?outside ?inside⟩
  case outside => exact raised_raise s .addr
  case inside =>
    exact ⟨storedIn_done s fun _ hc => s.mem.read_writeBlock_outside _ hc,
      fun k => Memory.read_writeBlock_inside hwf _ _ k.isLt⟩

end Sys2Proof.Machine

/-! PROOF. The AES-128 cipher: its S-box, its byte maps, its rounds and its key schedule
(41_block_cipher_core.md R111 to R117). -/

namespace Sys2Proof.Machine

/-! ### The S-box (R111) -/

/-- The inverse of `sboxAffine`: its matrix is the circulant of bits 2, 5 and 7. -/
def sboxAffineInverse (t : Byte) : Byte :=
  t.rotateLeft 1 ^^^ t.rotateLeft 3 ^^^ t.rotateLeft 6 ^^^ 0x05

/-- The inverse in GF(2^8), read off the S-box; 0 for 0. -/
def gfInverse (x : Byte) : Byte := sboxAffineInverse (sbox x)

theorem sboxAffine_sboxAffineInverse : ∀ t : Byte, sboxAffine (sboxAffineInverse t) = t := by
  decide +kernel

/-- What `gfInverse` is named after: the field's own multiplication says so, for all 255 bytes. -/
theorem gfMul_gfInverse : ∀ x : Byte, x ≠ 0 → gfMul x (gfInverse x) = 1 := by decide +kernel

theorem gfInverse_involutive : Function.Involutive gfInverse := by
  unfold Function.Involutive
  decide +kernel

theorem sbox_eq_sboxAffine (x : Byte) : sbox x = sboxAffine (gfInverse x) :=
  (sboxAffine_sboxAffineInverse (sbox x)).symm

theorem sbox_injective : Function.Injective sbox :=
  Function.Injective.of_comp (f := sboxAffineInverse) gfInverse_involutive.injective

/-- Settles O17, with the inverse that the S-box itself holds. -/
theorem sboxIsAffineOfInverse : Obligations.SboxIsAffineOfInverse :=
  ⟨sbox_eq_sboxAffine 0, fun x hx => ⟨gfInverse x, gfMul_gfInverse x hx, sbox_eq_sboxAffine x⟩⟩

/-! ### Multiples in GF(2^8) (R114) -/

theorem gfMul_two : ∀ a : Byte, gfMul 2 a = xtime a := by decide +kernel

theorem gfMul_three : ∀ a : Byte, gfMul 3 a = times3 a := by decide +kernel

theorem xtime_eq_xor (a : Byte) : xtime a = a <<< 1 ^^^ if a.getLsbD 7 then 0x1B else 0 := by
  rw [xtime]
  split <;> simp

theorem xtime_toNat (a : Byte) :
    (xtime a).toNat = (2 * a.toNat % 256) ^^^ if a.getLsbD 7 then 0x1B else 0 := by
  rw [xtime_eq_xor, BitVec.toNat_xor, BitVec.toNat_shiftLeft, Nat.shiftLeft_eq, mul_comm,
    apply_ite BitVec.toNat]
  rfl

/-- Multiplication by 2 is linear. -/
theorem xtime_xor (a b : Byte) : xtime (a ^^^ b) = xtime a ^^^ xtime b := by
  have swap (p q c d : Byte) : p ^^^ c ^^^ (q ^^^ d) = p ^^^ q ^^^ (c ^^^ d) := by ac_rfl
  simp only [xtime_eq_xor, swap, BitVec.getLsbD_xor, BitVec.shiftLeft_xor_distrib]
  cases a.getLsbD 7 <;> cases b.getLsbD 7 <;> rfl

theorem xor_left_comm (a b c : Byte) : a ^^^ (b ^^^ c) = b ^^^ (a ^^^ c) := by ac_rfl

theorem xor_cancel_left (a b : Byte) : a ^^^ (a ^^^ b) = b := by
  rw [← BitVec.xor_assoc, BitVec.xor_self, BitVec.zero_xor]

/-! ### A block as its bytes -/

theorem blockByte_blockOfBytes {l : List Byte} (hl : l.length = 16) {k : Nat} (hk : k < l.length) :
    blockByte (blockOfBytes l) k = l[k] :=
  blockByte_blk_be hl hk

/-- Blocks with the same bytes are the same: bit `i` is a bit of byte `15 - i / 8`. -/
theorem eq_of_blockByte_eq {a b : Block} (h : ∀ k, k < 16 → blockByte a k = blockByte b k) :
    a = b := by
  apply BitVec.eq_of_getLsbD_eq
  intro i hi
  have bit (v : Block) : (blockByte v (15 - i / 8)).getLsbD (i % 8) = v.getLsbD i := by
    rw [blockByte, BitVec.getLsbD_extractLsb', decide_eq_true (Nat.mod_lt i (by decide)), Bool.true_and]
    congr 1
    omega
  rw [← bit a, ← bit b, h _ (by omega)]

/-! ### SubBytes, ShiftRows, MixColumns byte by byte (R112, R113, R114) -/

theorem blockByte_subBytes (b : Block) {k : Nat} (hk : k < 16) :
    blockByte (subBytes b) k = sbox (blockByte b k) := by
  rw [subBytes, blockByte_blockOfBytes (by simp [blockBytes]) (by simpa [blockBytes])]
  simp [blockBytes]

theorem blockByte_shiftRows (b : Block) {k j : Nat} (h : shiftRowsSource[k]? = some j) :
    blockByte (shiftRows b) k = blockByte b j := by
  obtain ⟨hk, rfl⟩ := List.getElem?_eq_some_iff.mp h
  rw [shiftRows, blockByte_blockOfBytes rfl (by simpa using hk), List.getElem_map]

/-- The table of R113 is its formula. -/
theorem shiftRowsSource_formula :
    ∀ r c : Fin 4, shiftRowsSource[(r + 4 * c : Nat)]? = some (r + 4 * ((c + r : Nat) % 4)) := by
  decide

/-- Byte `r` of column `c`: the byte at row `r`, column `c` (R110). -/
def columnByte (b : Block) (c r : Fin 4) : Byte := blockByte b (4 * c + r)

theorem eq_of_columnByte_eq {a b : Block} (h : ∀ c r, columnByte a c r = columnByte b c r) : a = b :=
  eq_of_blockByte_eq fun k hk => by
    simpa [columnByte, Nat.div_add_mod] using h ⟨k / 4, by omega⟩ ⟨k % 4, by omega⟩

theorem columnByte_mixColumns (b : Block) (c r : Fin 4) :
    columnByte (mixColumns b) c r =
      (mixColumn (columnByte b c 0) (columnByte b c 1) (columnByte b c 2)
        (columnByte b c 3))[r]'r.isLt := by
  rw [columnByte, mixColumns, blockByte_blockOfBytes rfl (show (4 * c + r : Nat) < 16 by omega)]
  fin_cases c <;> fin_cases r <;> simp [mixColumn, columnByte]

/-! ### Each layer of a round can be undone -/

theorem subBytes_injective : Function.Injective subBytes := by
  intro a b h
  refine eq_of_blockByte_eq fun k hk => sbox_injective ?_
  rw [← blockByte_subBytes a hk, h, blockByte_subBytes b hk]

/-- Every byte of the old state stands somewhere in the new one. -/
theorem shiftRows_injective : Function.Injective shiftRows := by
  have moved : ∀ j : Fin 16, ∃ k : Fin 16, shiftRowsSource[(k : Nat)]? = some j.val := by decide
  intro a b h
  refine eq_of_blockByte_eq fun j hj => ?_
  obtain ⟨k, hk⟩ := moved ⟨j, hj⟩
  rw [← blockByte_shiftRows a hk, h, blockByte_shiftRows b hk]

/-- The sum of a column's four bytes. -/
def columnSum (b : Block) (c : Fin 4) : Byte :=
  columnByte b c 0 ^^^ columnByte b c 1 ^^^ columnByte b c 2 ^^^ columnByte b c 3

theorem columnSum_eq (b : Block) (c r : Fin 4) : columnSum b c = columnByte b c r ^^^
    columnByte b c (r + 1) ^^^ columnByte b c (r + 2) ^^^ columnByte b c (r + 3) := by
  rw [columnSum]
  match r with
  | 0 => rfl
  | 1 | 2 | 3 => simp only [Fin.reduceAdd]; ac_rfl

/-- The four rows of the matrix of R114 are one row, rotated: `2 a + 3 a' + a'' + a'''`. -/
theorem getElem_mixColumn (a : Fin 4 → Byte) (r : Fin 4) :
    (mixColumn (a 0) (a 1) (a 2) (a 3))[r]'r.isLt =
      xtime (a r) ^^^ times3 (a (r + 1)) ^^^ a (r + 2) ^^^ a (r + 3) := by
  match r with
  | 0 => rfl
  | 1 | 2 | 3 => simp [mixColumn]; ac_rfl

/-- That row is `2 (a + a') + a` and the sum of the column. -/
theorem columnByte_mixColumns_sum (b : Block) (c r : Fin 4) :
    columnByte (mixColumns b) c r =
      xtime (columnByte b c r ^^^ columnByte b c (r + 1)) ^^^ columnByte b c r ^^^ columnSum b c := by
  rw [columnByte_mixColumns, getElem_mixColumn, columnSum_eq b c r, times3, xtime_xor]
  simp only [BitVec.xor_assoc, BitVec.xor_comm, xor_left_comm, xor_cancel_left]

theorem columnSum_mixColumns (b : Block) (c : Fin 4) : columnSum (mixColumns b) c = columnSum b c := by
  simp only [columnSum_eq _ c 0, columnByte_mixColumns_sum, Fin.reduceAdd, xtime_xor,
    BitVec.xor_assoc, BitVec.xor_comm, xor_left_comm, xor_cancel_left, BitVec.xor_self, BitVec.zero_xor]

/-- `MixColumns` twice adds `4 (a + a'')`, where `a''` stands two rows below `a`. -/
theorem columnByte_mixColumns_mixColumns (b : Block) (c r : Fin 4) :
    columnByte (mixColumns (mixColumns b)) c r =
      columnByte b c r ^^^ xtime (xtime (columnByte b c r ^^^ columnByte b c (r + 2))) := by
  rw [columnByte_mixColumns_sum, columnSum_mixColumns]
  simp only [columnByte_mixColumns_sum b, xtime_xor, add_assoc, Fin.reduceAdd, BitVec.xor_assoc,
    BitVec.xor_comm, xor_left_comm, xor_cancel_left]

/-- `MixColumns` has order four: the second two times add `4 (a + a'')` once more. -/
theorem mixColumns_four (b : Block) : mixColumns (mixColumns (mixColumns (mixColumns b))) = b := by
  refine eq_of_columnByte_eq fun c r => ?_
  simp only [columnByte_mixColumns_mixColumns, add_assoc, Fin.reduceAdd, add_zero, xtime_xor,
    BitVec.xor_assoc, BitVec.xor_comm, xor_left_comm, xor_cancel_left, BitVec.xor_self]

theorem mixColumns_injective : Function.Injective mixColumns :=
  Function.LeftInverse.injective (g := mixColumns ∘ mixColumns ∘ mixColumns) mixColumns_four

/-! ### The rounds (R117) -/

/-- The state after the key addition and `r` full rounds. -/
def roundState (rk : ExpandedKey) (b : Block) : Nat → Block
  | 0 => b ^^^ rk[0]
  | r + 1 => aesRound (roundState rk b r) rk[Fin.ofNat 11 (r + 1)]

theorem roundState_succ (rk : ExpandedKey) (b : Block) {r : Nat} (hr : r < 9) :
    roundState rk b (r + 1) = mixColumns (shiftRows (subBytes (roundState rk b r))) ^^^ rk[r + 1] := by
  rw [roundState, aesRound]
  congr 1
  simp only [Fin.getElem_fin, Fin.val_ofNat]
  congr 1
  omega

theorem aes_eq_roundState (rk : ExpandedKey) (b : Block) :
    aes rk b = shiftRows (subBytes (roundState rk b 9)) ^^^ rk[10] := rfl

theorem roundState_injective (rk : ExpandedKey) (r : Nat) : Function.Injective (roundState rk · r) := by
  induction r with
  | zero => exact fun a b h => (BitVec.xor_left_inj rk[0]).mp h
  | succ r ih =>
    exact fun a b h =>
      ih (subBytes_injective (shiftRows_injective (mixColumns_injective ((BitVec.xor_left_inj _).mp h))))

theorem aes_injective (rk : ExpandedKey) : Function.Injective (aes rk) := by
  intro a b h
  rw [aes_eq_roundState, aes_eq_roundState, BitVec.xor_left_inj] at h
  exact roundState_injective rk 9 (subBytes_injective (shiftRows_injective h))

/-- Settles O16: every layer of a round is injective on the finitely many blocks. -/
theorem cipherIsAPermutation : Obligations.CipherIsAPermutation := by
  refine ⟨fun b k => blockByte_subBytes b k.isLt,
    fun b r c => blockByte_shiftRows b (shiftRowsSource_formula r c), fun a => ⟨?two, ?three⟩,
    fun b c => ?columns, fun rk b => ⟨roundState rk b, rfl, fun _ hr => roundState_succ rk b hr,
      aes_eq_roundState rk b⟩, fun rk => Finite.injective_iff_bijective.mp (aes_injective rk)⟩
  case two => rw [gfMul_two, xtime_toNat]
  case three => rw [gfMul_two, gfMul_three, times3]
  case columns =>
    simp only [gfMul_two, gfMul_three]
    exact ⟨columnByte_mixColumns b c 0, columnByte_mixColumns b c 1, columnByte_mixColumns b c 2,
      columnByte_mixColumns b c 3⟩

/-! ### The key schedule (R115, R116) -/

/-- Four words put together, first word most significant, are taken apart again. -/
theorem keyWord_append (a b c d : KeyWord) :
    keyWord (a ++ b ++ c ++ d) 0 = a ∧ keyWord (a ++ b ++ c ++ d) 1 = b ∧
      keyWord (a ++ b ++ c ++ d) 2 = c ∧ keyWord (a ++ b ++ c ++ d) 3 = d := by
  have last {n : Nat} (x : BitVec n) (y : KeyWord) : (x ++ y).extractLsb' 0 32 = y :=
    (BitVec.extractLsb'_append_eq_of_add_le (Nat.le_refl 32)).trans BitVec.extractLsb'_eq_self
  have shift {n : Nat} (x : BitVec n) (y : KeyWord) (k : Nat) :
      (x ++ y).extractLsb' (k + 32) 32 = x.extractLsb' k 32 :=
    BitVec.extractLsb'_append_eq_of_le (Nat.le_add_left 32 k)
  refine ⟨?_, ?_, ?_, last _ d⟩
  · exact (shift _ d 64).trans ((shift _ c 32).trans ((shift a b 0).trans BitVec.extractLsb'_eq_self))
  · exact (shift _ d 32).trans ((shift _ c 0).trans (last a b))
  · exact (shift _ d 0).trans (last _ c)

/-- The first word of a round key: the one place where a round constant enters. -/
theorem keyWord_nextRoundKey_zero (k : Block) (rcon : Byte) :
    keyWord (nextRoundKey k rcon) 0 = keyWord k 0 ^^^ scheduleCore (keyWord k 3) rcon :=
  (keyWord_append _ _ _ _).1

/-- Every other word adds the word before it. -/
theorem keyWord_nextRoundKey_succ (k : Block) (rcon : Byte) {j : Nat} (hj : j < 3) :
    keyWord (nextRoundKey k rcon) (j + 1) = keyWord k (j + 1) ^^^ keyWord (nextRoundKey k rcon) j := by
  rw [nextRoundKey]
  interval_cases j <;> simp [keyWord_append]

/-- The constants that rounds 1 to 10 add (R115). -/
def roundConstants : List Byte := [0x01, 0x02, 0x04, 0x08, 0x10, 0x20, 0x40, 0x80, 0x1B, 0x36]

theorem getElem_keyExpansion_succ (key : Block) (r : Fin 10) :
    ∃ rcon : Byte, roundConstants[r]? = some rcon ∧
      (keyExpansion key)[(r + 1 : Nat)] = nextRoundKey (keyExpansion key)[(r : Nat)] rcon := by
  fin_cases r <;> exact ⟨_, rfl, rfl⟩

/-- Settles O15: a word is word `j` of a round key, which is made of the one before it. -/
theorem keyScheduleRecurrence : Obligations.KeyScheduleRecurrence := by
  intro key w hw
  have word {r j : Nat} (hr : r < 11) (hj : j < 4) : w (4 * r + j) = keyWord (keyExpansion key)[r] j :=
    hw ⟨r, hr⟩ ⟨j, hj⟩
  refine ⟨rfl, fun r => ?first, fun i hlow hhigh hmod => ?other⟩
  case first =>
    obtain ⟨rcon, hrcon, hnext⟩ := getElem_keyExpansion_succ key r
    refine ⟨rcon, hrcon, ?_⟩
    calc w (4 * r + 4) = keyWord (keyExpansion key)[(r + 1 : Nat)] 0 :=
          word (r := r + 1) (j := 0) (by omega) (by decide)
      _ = w (4 * r) ^^^ scheduleCore (w (4 * r + 3)) rcon := by
        rw [hnext, keyWord_nextRoundKey_zero, ← word (by omega) (by decide),
          ← word (by omega) (by decide), Nat.add_zero]
  case other =>
    obtain ⟨r, j, hr, hj, rfl⟩ : ∃ r j, r < 10 ∧ j < 3 ∧ i = 4 * (r + 1) + (j + 1) :=
      ⟨i / 4 - 1, i % 4 - 1, by omega⟩
    obtain ⟨rcon, -, hnext⟩ := getElem_keyExpansion_succ key ⟨r, hr⟩
    have above : 4 * (r + 1) + (j + 1) - 4 = 4 * r + (j + 1) := by omega
    calc w (4 * (r + 1) + (j + 1)) = keyWord (keyExpansion key)[r + 1] (j + 1) :=
          word (by omega) (by omega)
      _ = w (4 * r + (j + 1)) ^^^ w (4 * (r + 1) + j) := by
        rw [hnext, keyWord_nextRoundKey_succ _ _ hj, ← hnext, ← word (by omega) (by omega),
          ← word (by omega) (by omega)]
      _ = w (4 * (r + 1) + (j + 1) - 4) ^^^ w (4 * (r + 1) + (j + 1) - 1) := by rw [above]; rfl

end Sys2Proof.Machine

/-! PROOF. The commands of BlockCipherCore, and PRF, PCLR and SCLR, which end as three of them do
(41_block_cipher_core.md R120 to R127, 42_prf_random_oracle.md R141, 43_prp_feistel.md R166,
45_ore_objects.md R215). -/

namespace Sys2Proof.Machine

/-! ### Checks one after another -/

/-- A command's first check; what the command does past it is a statement of its own. -/
theorem ends_checkThen {i : Instr} {s u t : State} {p q rest : Prop} [Decidable p]
    [Decidable q] {raised : State → Prop} (h : exec i s = .next (if p then u else t)) (hpq : p ↔ q)
    (hu : raised u) (ht : ¬ q → exec i s = .next t → rest) : if q then Ends i s raised else rest := by
  split
  case isTrue hq => exact ⟨u, h.trans (congrArg _ (if_pos (hpq.2 hq))), hu⟩
  case isFalse hq => exact ht hq (h.trans (congrArg _ (if_neg (mt hpq.1 hq))))

/-! ### Keys made and cleared (R120 to R124, R166, R215) -/

/-- A key entry written after a request: the oracle is then among the parts that may change. -/
theorem wroteK_drawn (s : State) (kd : KReg) (v : KeyEntry) :
    WroteK [.oracle] kd v s (s.afterDraw.setK kd v).done :=
  ⟨by simp, fun j hj => by simpa using State.setK_getK_ne s.afterDraw kd v j hj, rfl, by simp⟩

/-- Settles O28: KGEN makes its request first and turns on the answer. -/
theorem generateKey : Obligations.GenerateKey := by
  refine fun s kd => ⟨decode_wordR rfl, ?_⟩
  have run : exec (.kgen kd) s = execKgen kd s := rfl
  rw [execKgen] at run
  cases hanswer : s.nextAnswer <;> rw [hanswer] at run
  case none => exact ⟨_, run, raisedRandomness_one s⟩
  case some e => exact ⟨_, run, ⟨by simp [State.expandInto], rfl⟩, wroteK_drawn s kd _⟩

/-- Settles O29: KEXP has no check; KEXPM checks the length, then the address. -/
theorem expandKey : Obligations.ExpandKey := by
  refine fun s kd => ⟨fun bs => ⟨decode_wordR rfl, ?kexp⟩,
    fun xa xlen => ⟨decode_wordR rfl, ?kexpm⟩⟩
  case kexp => exact ⟨_, rfl, wroteK_done s [] kd _⟩
  case kexpm =>
    exact ends_checkThen rfl Iff.rfl (raised_raise s .length) fun _ h =>
      ends_check h Nat.not_le (raised_raise s .addr) (wroteK_done s [] kd _)

/-- Settles O30: one check and one write each. -/
theorem clearKeys : Obligations.ClearKeys := by
  intro s
  have refused := raised_raise s .keyNotInit
  refine ⟨fun kd => ⟨decode_wordR rfl, ends_check rfl Iff.rfl refused ?kclr⟩,
    fun pd => ⟨decode_wordR rfl, ends_check rfl Iff.rfl refused ?pclr⟩,
    fun sd => ⟨decode_wordR rfl, ends_check rfl Iff.rfl refused ?sclr⟩⟩
  case kclr => exact wroteK_done s [] kd _
  case pclr => exact wroteP_done s pd _
  case sclr => exact wroteS_done s [] sd _

/-! ### Blocks encrypted (R125 to R127) -/

/-- Settles O31: the two commands run the same check and the same write. -/
theorem encryptOneBlock : Obligations.EncryptOneBlock := by
  intro s bd ks bs
  have refused := raised_raise s .keyNotInit
  have wrote := wroteB_done s bd (aes (s.getK ks).rk (s.getB bs))
  have aese := ends_check (i := .aese bd ks bs) rfl Iff.rfl refused wrote
  have prf := ends_check (i := .prf bd ks bs) rfl Iff.rfl refused wrote
  refine ⟨decode_wordR rfl, decode_wordR rfl, ?_⟩
  split_ifs at aese prf ⊢ <;> exact ⟨aese, prf⟩

theorem Memory.readBlock_writeBlock {m : Memory} (h : m.wf = true) (a : Nat) (v : Block) :
    (m.writeBlock a v).readBlock a = v := by
  have hsmall : v.toNat % 256 ^ 16 = v.toNat := Nat.mod_eq_of_lt v.isLt
  rw [Memory.readBlock, Memory.writeBlock, readBE_writeBE h, hsmall, blk, BitVec.ofNat_toNat,
    BitVec.setWidth_eq]

/-- A block that lies clear of the block written is read as before. -/
theorem Memory.readBlock_writeBlock_of_disjoint (m : Memory) {a c : Nat} (v : Block)
    (h : c + 16 ≤ a ∨ a + 16 ≤ c) : (m.writeBlock a v).readBlock c = m.readBlock c :=
  readBlock_congr fun _ _ => m.read_writeBlock_outside v (by omega)

section Batch

/-! The loop of AESEM runs upwards, so it has not yet written what it is about to read where the
destination does not start above the source, or starts past its end. -/

variable {m : Memory} {dst src n : Nat} (rk : ExpandedKey)

/-- Each turn of the loop finds its source block as it was before the command. -/
theorem encryptBlocks_eq_foldl (h : dst ≤ src ∨ src + 16 * n ≤ dst) :
    encryptBlocks rk dst src n m = (List.range n).foldl
      (fun m' i => m'.writeBlock (dst + 16 * i) (aes rk (m.readBlock (src + 16 * i)))) m := by
  induction n with
  | zero => simp [encryptBlocks]
  | succ n ih =>
    rw [encryptBlocks_succ, encryptBlocks_source rk dst src n m (by omega), ih (by omega),
      List.range_succ, List.foldl_append, List.foldl_cons, List.foldl_nil]

theorem readBlock_encryptBlocks (hwf : m.wf = true) (h : dst ≤ src ∨ src + 16 * n ≤ dst) {i : Nat}
    (hi : i < n) :
    (encryptBlocks rk dst src n m).readBlock (dst + 16 * i) = aes rk (m.readBlock (src + 16 * i)) := by
  induction n with
  | zero => exact absurd hi (Nat.not_lt_zero i)
  | succ n ih =>
    rw [encryptBlocks_succ, encryptBlocks_source rk dst src n m (by omega)]
    rcases Nat.lt_succ_iff_lt_or_eq.mp hi with hlt | rfl
    · rw [Memory.readBlock_writeBlock_of_disjoint _ _ (by omega), ih (by omega) hlt]
    · exact Memory.readBlock_writeBlock (encryptBlocks_wf hwf rk dst src i) _ _

end Batch

/-- The effect of AESEM on operands that pass its three checks. -/
theorem exec_aesem {s : State} {ks : KReg} {xdst xsrc xn : XReg}
    (hkey : (s.getK ks).st = .initialized) (hsrc : s.natX xsrc + 16 * s.natX xn ≤ s.memSize)
    (hdst : s.natX xdst + 16 * s.natX xn ≤ s.memSize)
    (hranges : ¬ (s.natX xdst ≠ s.natX xsrc ∧
      rangesOverlap (s.natX xdst) (16 * s.natX xn) (s.natX xsrc) (16 * s.natX xn))) :
    exec (.aesem ks xdst xsrc xn) s = .next (s.setMem
      (encryptBlocks (s.getK ks).rk (s.natX xdst) (s.natX xsrc) (s.natX xn) s.mem)).done := by
  show execAesem ks xdst xsrc xn s = _
  simp only [execAesem, hkey, hsrc, hdst, hranges, ne_eq, not_true_eq_false, or_self, if_false]

/-- Settles O32: the checks in order, then what the loop leaves inside and outside the destination. -/
theorem encryptManyBlocks : Obligations.EncryptManyBlocks := by
  intro s ks xdst xsrc xn hwf
  refine ⟨decode_wordR rfl, ends_checkThen rfl Iff.rfl (raised_raise s .keyNotInit) fun _ h =>
    ends_checkThen h (or_congr Nat.not_le Nat.not_le) (raised_raise s .addr) fun _ h =>
    ends_checkThen h ?overlap (raised_raise s .param) fun hranges h =>
      ⟨_, h, ?frame, fun i hi => ?block⟩⟩
  case overlap => omega
  case frame => exact storedIn_done s fun c hc => encryptBlocks_outside _ _ _ _ _ hc
  case block => exact readBlock_encryptBlocks _ hwf (by omega) hi

/-- Settles O33: the loop that reads what it writes is the loop that reads the old memory. -/
theorem batchEqualsSingleEncryptions : Obligations.BatchEqualsSingleEncryptions := by
  intro s ks xdst xsrc xn dst src n hkey hsrc hdst hranges
  exact ⟨_, exec_aesem hkey hsrc hdst (by omega), encryptBlocks_eq_foldl _ (by omega)⟩

end Sys2Proof.Machine

/-! PROOF. The commands of the fixed-mode PRF on buffers and of the random oracle
(42_prf_random_oracle.md R142, R144 to R146). -/

namespace Sys2Proof.Machine

/-! ### The PRF on buffers (R142) -/

/-- Settles O34: the model's two length checks raise the same code, so they are the one check that the
statement makes of them; then one block is read, encrypted and stored. -/
theorem prfOnBuffers : Obligations.PrfOnBuffers := by
  intro s ks xdst xdlen xsrc xslen hwf
  refine ⟨decode_wordR rfl, ends_checkThen rfl Iff.rfl (raised_raise s .keyNotInit) fun _ h =>
    ends_checkThen (h.trans (congrArg _ (ite_or ..).symm)) Iff.rfl (raised_raise s .length) fun _ h =>
    ends_checkThen h (or_congr Nat.not_le Nat.not_le) (raised_raise s .addr) fun _ h =>
    ends_check h ?overlap (raised_raise s .param) ⟨?frame, ?block⟩⟩
  case overlap => omega
  case frame => exact storedIn_done s fun _ hc => s.mem.read_writeBlock_outside _ hc
  case block => exact Memory.readBlock_writeBlock hwf _ _

/-! ### The random oracle (R144 to R146) -/

/-- The oracle's bit, as a number of any width: the cipher's block modulo 2. -/
theorem zeroExtend_lowBit (b : Block) (w : Nat) :
    (b.extractLsb' 0 1).zeroExtend w = BitVec.ofNat w (b.toNat % 2) := by
  apply BitVec.eq_of_toNat_eq
  simp

/-- Settles O35: RO has no check and one write. -/
theorem randomOracleBit : Obligations.RandomOracleBit :=
  fun s _ bkey bval => ⟨decode_wordR rfl,
    ends_wroteX rfl (zeroExtend_lowBit (aes (keyExpansion (s.getB bval)) (s.getB bkey)) 64)⟩

/-- A source block clear of the first `n` output bytes is still as it was when the loop of ROM has
written them. -/
theorem readBlock_oracleBytes (rk : ExpandedKey) {dst src n a : Nat} (m : Memory)
    (h : a + 16 ≤ dst ∨ dst + n ≤ a) : (oracleBytes rk dst src n m).readBlock a = m.readBlock a :=
  Memory.readBlock_congr fun _ _ => oracleBytes_outside rk dst src n m (by omega)

/-- Where the keys are clear of the output, every output byte is the bit of its key block as it was. -/
theorem read_oracleBytes {m : Memory} {dst src n : Nat} (rk : ExpandedKey) (hwf : m.wf = true)
    (h : src + 16 * n ≤ dst ∨ dst + n ≤ src) {i : Nat} (hi : i < n) :
    (oracleBytes rk dst src n m).read (dst + i) =
      BitVec.ofNat 8 ((aes rk (m.readBlock (src + 16 * i))).toNat % 2) := by
  induction n with
  | zero => exact absurd hi (Nat.not_lt_zero i)
  | succ n ih =>
    rw [oracleBytes_succ]
    rcases Nat.lt_succ_iff_lt_or_eq.mp hi with hlt | rfl
    · rw [Memory.read_write_ne _ _ (by omega), ih (by omega) hlt]
    · rw [Memory.read_write (oracleBytes_wf hwf rk dst src i), if_pos rfl, zeroExtend_lowBit,
        readBlock_oracleBytes rk m (by omega)]

/-- Settles O36: the checks in order, then what the loop leaves inside and outside the output. -/
theorem randomOracleBytes : Obligations.RandomOracleBytes := by
  intro s xdst xsrc xn bval hwf
  refine ⟨decode_wordR rfl,
    ends_checkThen rfl (or_congr Nat.not_le Nat.not_le) (raised_raise s .addr) fun _ h =>
    ends_checkThen h ?overlap (raised_raise s .param) fun hranges h =>
      ⟨_, h, ?frame, fun i hi => ?byte⟩⟩
  case overlap => omega
  case frame => exact storedIn_done s fun _ hc => oracleBytes_outside _ _ _ _ _ hc
  case byte => exact read_oracleBytes _ hwf (by omega) hi

end Sys2Proof.Machine

/-! PROOF. The three-round Feistel permutation and its commands (43_prp_feistel.md R160 to R173). -/

namespace Sys2Proof.Machine

/-! ### The two halves of a number (R161) -/

/-- The halves `(L, R)` that R163 and R164 take a number apart into. -/
def halves (h x : Nat) : Nat × Nat := (x >>> h, x % 2 ^ h)

/-- `(L << h) or R`. -/
def joinHalves (h : Nat) (lr : Nat × Nat) : Nat := (lr.1 <<< h) ||| lr.2

/-- Both halves are naturals below `2^h`. -/
def InHalves (h : Nat) (lr : Nat × Nat) : Prop := lr.1 < 2 ^ h ∧ lr.2 < 2 ^ h

section Halves

variable {h x : Nat} {lr : Nat × Nat}

/-- The width of a half, where the even width is written as a sum. -/
theorem half_add_self (h : Nat) : (h + h) / 2 = h := by omega

theorem halves_eq (h x : Nat) : halves h x = (x / 2 ^ h, x % 2 ^ h) := by
  rw [halves, Nat.shiftRight_eq_div_pow]

theorem joinHalves_eq (hr : lr.2 < 2 ^ h) : joinHalves h lr = lr.1 * 2 ^ h + lr.2 := by
  rw [joinHalves, ← Nat.shiftLeft_add_eq_or_of_lt hr, Nat.shiftLeft_eq]

theorem InHalves.swap (hlr : InHalves h lr) : InHalves h lr.swap := And.symm hlr

theorem inHalves_halves (hx : x < 2 ^ (h + h)) : InHalves h (halves h x) := by
  rw [halves_eq]
  exact ⟨Nat.div_lt_of_lt_mul (Nat.pow_add 2 h h ▸ hx), Nat.mod_lt x (by positivity)⟩

theorem joinHalves_lt (hlr : InHalves h lr) : joinHalves h lr < 2 ^ (h + h) := by
  obtain ⟨hl, hr⟩ := hlr
  calc joinHalves h lr = lr.1 * 2 ^ h + lr.2 := joinHalves_eq hr
    _ < (lr.1 + 1) * 2 ^ h := by rw [Nat.succ_mul]; omega
    _ ≤ 2 ^ h * 2 ^ h := Nat.mul_le_mul_right _ hl
    _ = 2 ^ (h + h) := (Nat.pow_add 2 h h).symm

theorem joinHalves_halves (h x : Nat) : joinHalves h (halves h x) = x := by
  rw [halves_eq, joinHalves_eq (Nat.mod_lt x (by positivity))]
  exact Nat.div_add_mod' x (2 ^ h)

theorem halves_joinHalves (hr : lr.2 < 2 ^ h) : halves h (joinHalves h lr) = lr := by
  rw [joinHalves_eq hr, halves_eq, Nat.mul_comm, Nat.mul_add_div (by positivity), Nat.mul_add_mod,
    Nat.div_eq_of_lt hr, Nat.mod_eq_of_lt hr, Nat.add_zero]

end Halves

/-! ### Three rounds and the way back (R162 to R164, R172) -/

/-- The rounds with three keys, first key first. -/
def threeRounds (k0 k1 k2 : ExpandedKey) (h : Nat) (lr : Nat × Nat) : Nat × Nat :=
  prpRound k2 h (prpRound k1 h (prpRound k0 h lr))

section Rounds

variable (k0 k1 k2 : ExpandedKey) (keys : PrpKeys) {h n x : Nat} {lr : Nat × Nat}

theorem InHalves.threeRounds (hlr : InHalves h lr) : InHalves h (threeRounds k0 k1 k2 h lr) := by
  have round (k : ExpandedKey) {lr : Nat × Nat} (hlr : InHalves h lr) : InHalves h (prpRound k h lr) :=
    prpRound_lt hlr.1 hlr.2
  exact round k2 (round k1 (round k0 hlr))

/-- The rounds with the keys in reverse order, on the swapped halves, lead back to the swapped start. -/
theorem threeRounds_swap :
    threeRounds k2 k1 k0 h (threeRounds k0 k1 k2 h lr).swap = lr.swap := by
  have undo (k : ExpandedKey) (lr : Nat × Nat) : prpRound k h (prpRound k h lr).swap = lr.swap :=
    prpRound_swap k h lr
  simp only [threeRounds, undo]

theorem prpFwd_eq : prpFwd keys x (h + h) =
    joinHalves h (threeRounds keys[0] keys[1] keys[2] h (halves h x)) := by
  simp only [prpFwd, half_add_self]
  rfl

theorem prpInv_eq : prpInv keys x (h + h) =
    joinHalves h (threeRounds keys[2] keys[1] keys[0] h (halves h x).swap).swap := by
  simp only [prpInv, half_add_self]
  rfl

theorem prpInv_prpFwd (hn : Even n) (hx : x < 2 ^ n) : prpInv keys (prpFwd keys x n) n = x := by
  obtain ⟨h, rfl⟩ := hn
  have bound := (inHalves_halves hx).threeRounds keys[0] keys[1] keys[2]
  rw [prpInv_eq, prpFwd_eq, halves_joinHalves bound.2, threeRounds_swap, Prod.swap_swap,
    joinHalves_halves]

theorem prpFwd_prpInv (hn : Even n) (hx : x < 2 ^ n) : prpFwd keys (prpInv keys x n) n = x := by
  obtain ⟨h, rfl⟩ := hn
  have bound := ((inHalves_halves hx).swap.threeRounds keys[2] keys[1] keys[0]).swap
  rw [prpFwd_eq, prpInv_eq, halves_joinHalves bound.2, threeRounds_swap, Prod.swap_swap,
    joinHalves_halves]

theorem prpFwd_lt (hn : Even n) (hx : x < 2 ^ n) : prpFwd keys x n < 2 ^ n := by
  obtain ⟨h, rfl⟩ := hn
  rw [prpFwd_eq]
  exact joinHalves_lt ((inHalves_halves hx).threeRounds _ _ _)

theorem prpInv_lt (hn : Even n) (hx : x < 2 ^ n) : prpInv keys x n < 2 ^ n := by
  obtain ⟨h, rfl⟩ := hn
  rw [prpInv_eq]
  exact joinHalves_lt ((inHalves_halves hx).swap.threeRounds _ _ _).swap

end Rounds

/-- Settles O21: a round undoes itself on swapped halves, so three do; the halves stay in bounds. -/
theorem prpRoundTrip : Obligations.PrpRoundTrip := by
  intro keys n x hn _ hx
  have heven := Nat.even_iff.2 hn
  refine ⟨prpInv_prpFwd keys heven hx, prpFwd_prpInv keys heven hx, prpFwd_lt keys heven hx,
    prpInv_lt keys heven hx, ?_⟩
  obtain ⟨h, rfl⟩ := heven
  have bound := (inHalves_halves hx).threeRounds keys[0] keys[1] keys[2]
  rw [half_add_self, prpFwd_eq, joinHalves_eq bound.2, halves_eq]
  rfl

/-! ### The single-value commands (R167, R168, R173) -/

/-- `f` maps the domain of every even width to itself, as the permutation and its inverse do. -/
def KeepsDomain (f : PrpKeys → Nat → Nat → Nat) : Prop :=
  ∀ (keys : PrpKeys) {n x : Nat}, Even n → x < 2 ^ n → f keys x n < 2 ^ n

/-- The two checks of the single-value form raise the same code: the width, and the source for widths
below 64. At width 64 every X register is inside the domain. -/
theorem prpSingle_refuses_iff {n : Nat} (v : XWord) :
    (¬ prpWidthOk n ∨ n < 64 ∧ 2 ^ n ≤ v.toNat) ↔ n % 2 = 1 ∨ 64 < n ∨ 2 ^ n ≤ v.toNat := by
  have width : ¬ prpWidthOk n ↔ n % 2 = 1 ∨ 64 < n := by
    simp only [prpWidthOk, Config.prpMaxBits]
    omega
  have full : n = 64 → v.toNat < 2 ^ n := by
    rintro rfl
    exact v.isLt
  rw [width]
  omega

/-- R167 and R168 at once: a command that runs the single-value form on a function that keeps domains. -/
theorem ends_prpSingle {i : Instr} {s : State} {f : PrpKeys → Nat → Nat → Nat} {xd : XReg} {ps : PReg}
    {xs xn : XReg} (hf : KeepsDomain f) (h : exec i s = .next (s.prpSingle f xd ps xs xn)) :
    let n := s.natX xn
    let y := f (s.getP ps).rk (s.natX xs) n
    if (s.getP ps).st ≠ .initialized then Ends i s (Raised 3 s)
    else if n % 2 = 1 ∨ 64 < n ∨ 2 ^ n ≤ s.natX xs then Ends i s (Raised 2 s)
    else Ends i s fun t =>
      WroteX xd (BitVec.ofNat 64 y) s t ∧ (t.getX xd).toNat = y ∧ (t.getX xd).toNat < 2 ^ n := by
  intro n y
  refine ends_checkThen h Iff.rfl (raised_raise s .keyNotInit) fun _ h =>
    ends_checkThen (h.trans (congrArg _ (ite_or ..).symm)) (prpSingle_refuses_iff (s.getX xs))
      (raised_raise s .param) fun hok h => ?_
  have hy : y < 2 ^ n := hf _ (Nat.even_iff.2 (by omega)) (by omega)
  have hword : 2 ^ n ≤ 2 ^ 64 := Nat.pow_le_pow_right (by decide) (by omega)
  have hvalue : (BitVec.ofNat 64 y).toNat = y := Nat.mod_eq_of_lt (hy.trans_le hword)
  refine ⟨_, h, wroteX_done s xd _, ?_⟩
  rw [State.done_getX, State.setX_getX_self, hvalue]
  exact ⟨rfl, hy⟩

/-- Settles O38: the two commands run the same checks, and both functions keep the domain. -/
theorem prpOnOneValue : Obligations.PrpOnOneValue := by
  intro s xd ps xs xn
  have prpe := ends_prpSingle (i := .prpe xd ps xs xn) (s := s) prpFwd_lt rfl
  have prpd := ends_prpSingle (i := .prpd xd ps xs xn) (s := s) prpInv_lt rfl
  refine ⟨decode_wordR rfl, decode_wordR rfl, ?_⟩
  dsimp only at prpe prpd ⊢
  split_ifs at prpe prpd ⊢ <;> exact ⟨prpe, prpd⟩

/-! ### The full-domain commands (R169 to R171, R173) -/

/-- Every entry of the table reads back as the low sixteen bits of its value. -/
theorem readBE_writeTable {m : Memory} (hwf : m.wf = true) (f : Nat → Nat) (dst : Nat) {n v : Nat}
    (hv : v < n) : (writeTable f dst n m).readBE (dst + 2 * v) 2 = f v % 2 ^ 16 := by
  induction n with
  | zero => exact absurd hv (Nat.not_lt_zero v)
  | succ n ih =>
    rw [writeTable_succ]
    rcases Nat.lt_succ_iff_lt_or_eq.mp hv with hlt | rfl
    · rw [Memory.readBE_congr fun k _ => Memory.read_writeBE_outside _ (f n) (by omega), ih hlt]
    · exact Memory.readBE_writeBE (writeTable_wf hwf f dst v) _ 2 (f v)

/-- R169 and R170 at once: a command that tabulates a function that keeps domains. -/
theorem ends_prpTable {i : Instr} {s : State} {f : PrpKeys → Nat → Nat → Nat} {ps : PReg}
    {xdst xn : XReg} (hf : KeepsDomain f) (hwf : s.mem.wf = true)
    (h : exec i s = .next (s.prpTable f ps xdst xn)) :
    let n := s.natX xn
    let dst := s.natX xdst
    if (s.getP ps).st ≠ .initialized then Ends i s (Raised 3 s)
    else if n % 2 = 1 ∨ 16 < n then Ends i s (Raised 2 s)
    else if s.memSize < dst + 2 * 2 ^ n then Ends i s (Raised 9 s)
    else Ends i s fun t => StoredIn dst (2 * 2 ^ n) s t ∧
      ∀ v, v < 2 ^ n → t.mem.readBE (dst + 2 * v) 2 = f (s.getP ps).rk v n := by
  intro n dst
  have width : ¬ prpAllWidthOk n ↔ n % 2 = 1 ∨ 16 < n := by
    simp only [prpAllWidthOk, Config.prpAllMaxBits]
    omega
  refine ends_checkThen h Iff.rfl (raised_raise s .keyNotInit) fun _ h =>
    ends_checkThen h width (raised_raise s .param) fun hok h =>
    ends_check h Nat.not_le (raised_raise s .addr) ⟨?frame, fun v hv => ?entry⟩
  case frame => exact storedIn_done s fun _ hc => writeTable_outside _ _ _ _ hc
  case entry =>
    have hword : 2 ^ n ≤ 2 ^ 16 := Nat.pow_le_pow_right (by decide) (by omega)
    have hy : f (s.getP ps).rk v n < 2 ^ n := hf _ (Nat.even_iff.2 (by omega)) hv
    exact (readBE_writeTable hwf _ dst hv).trans (Nat.mod_eq_of_lt (hy.trans_le hword))

/-- Settles O39: the two commands run the same checks and the same loop, over two functions that keep
the domain. -/
theorem prpTables : Obligations.PrpTables := by
  intro s ps xdst xn hwf
  have prpea := ends_prpTable (i := .prpea ps xdst xn) prpFwd_lt hwf rfl
  have prpda := ends_prpTable (i := .prpda ps xdst xn) prpInv_lt hwf rfl
  refine ⟨decode_wordR rfl, decode_wordR rfl, ?_⟩
  dsimp only at prpea prpda ⊢
  split_ifs at prpea prpda ⊢ <;> exact ⟨prpea, prpda⟩

/-! ### Key sets (R160, R165) -/

theorem getElem_prpKeyExpand (rk : ExpandedKey) (i : Fin 3) :
    (prpKeyExpand rk)[i] = keyExpansion (aes rk (BitVec.ofNat 128 i)) := by
  fin_cases i <;> rfl

/-- Settles O37: one check and one write, of the three keys of R160. -/
theorem expandPrpKeys : Obligations.ExpandPrpKeys := fun s pd _ =>
  ⟨decode_wordR rfl, ends_check rfl Iff.rfl (raised_raise s .keyNotInit)
    ⟨_, wroteP_done s pd _, getElem_prpKeyExpand _⟩⟩

end Sys2Proof.Machine

/-! PROOF. The counter generator (44_counter_generator.md R190 to R194). -/

namespace Sys2Proof.Machine

/-! ### `GenNext` (R191) -/

theorem generatorUsed_of_seeded {s : State} (h : s.g.seeded = true) : generatorUsed s = some s.g :=
  if_pos h

theorem ofNat_toNat_succ (c : Block) : BitVec.ofNat 128 (c.toNat + 1) = c + 1 := by
  simp [BitVec.ofNat_add]

/-- The state after `GenNext` where a generator answers: G is the one that answered, advanced. -/
theorem genNext_g {s : State} {g : Generator} (h : generatorUsed s = some g) :
    s.genNext.2.g = { seeded := true, rk := g.rk, ctr := BitVec.ofNat 128 (g.ctr.toNat + 1) } := by
  rw [genNext_eq, h, State.setG_g, ofNat_toNat_succ]

theorem genNext_getB (s : State) (j : BReg) : s.genNext.2.getB j = s.getB j :=
  congrArg (·[j]) (genNext_changesOnly s .b (by decide))

/-- `GenNext` asks the oracle only to seed an unseeded generator, whether or not it answers. -/
theorem oracleAsked_genNext (s : State) : OracleAsked (generatorRequests s) s s.genNext.2 := by
  rw [State.genNext, generatorRequests]
  split
  case isTrue => exact ⟨rfl, rfl⟩
  case isFalse => split <;> exact ⟨List.drop_one.symm, rfl⟩

/-! ### GNEXT (R192) -/

/-- GNEXT completed with the block of the generator `g`. -/
def WroteNonce (bd : BReg) (g : Generator) (s t : State) : Prop :=
  t.getB bd = aes g.rk g.ctr ∧ (∀ j, j ≠ bd → t.getB j = s.getB j) ∧
    t.g = { seeded := true, rk := g.rk, ctr := BitVec.ofNat 128 (g.ctr.toNat + 1) } ∧
    OracleAsked (generatorRequests s) s t ∧ t.result = 0 ∧ ChangesOnly [.b, .g, .oracle, .result] s t

theorem ends_gnext_of_none {s : State} (h : generatorUsed s = none) (bd : BReg) :
    Ends (.gnext bd) s (RaisedRandomness 1 s) := by
  have run : exec (.gnext bd) s = execGnext bd s := rfl
  rw [execGnext, genNext_eq, h] at run
  exact ends_next s run (raisedRandomness_one s)

theorem ends_gnext_of_some {s : State} {g : Generator} (h : generatorUsed s = some g) (bd : BReg) :
    Ends (.gnext bd) s (WroteNonce bd g s) := by
  have answer : s.genNext = (some (aes g.rk g.ctr), s.genNext.2) := by rw [genNext_eq, h]
  have run : exec (.gnext bd) s = execGnext bd s := rfl
  rw [execGnext, answer] at run
  refine ends_next s run ⟨by simp, fun j hj => ?others, genNext_g h, oracleAsked_genNext s, rfl, ?frame⟩
  case others => exact (State.setB_getB_ne _ _ _ j hj).trans (genNext_getB s j)
  case frame => simpa using (genNext_changesOnly s).mono (by decide)

/-- A command ends in one way: what it is known to end with holds of the state it answers. -/
theorem Ends.of_exec {i : Instr} {s t : State} {post : State → Prop} (h : Ends i s post)
    (ht : exec i s = .next t) : post t := by
  obtain ⟨u, hu, hpost⟩ := h
  obtain rfl := Host.Outcome.next.inj (hu.symm.trans ht)
  exact hpost

/-- A GNEXT that ends with 0 is one that a generator answered. -/
theorem wroteNonce_of_result_zero {s t : State} {bd : BReg} (h : exec (.gnext bd) s = .next t)
    (hok : t.result = 0) : ∃ g, WroteNonce bd g s t := by
  cases used : generatorUsed s with
  | none =>
    obtain ⟨failed, -⟩ := (ends_gnext_of_none used bd).of_exec h
    exact absurd (failed.symm.trans hok) (by decide)
  | some g => exact ⟨g, (ends_gnext_of_some used bd).of_exec h⟩

/-- The counter differs from its successor modulo `2^128`, and the cipher keeps blocks apart. -/
theorem aes_next_ne (rk : ExpandedKey) (c : Block) : aes rk (BitVec.ofNat 128 (c.toNat + 1)) ≠ aes rk c := by
  have moved : c + 1 ≠ c := by simp
  exact (aes_injective rk).ne (ofNat_toNat_succ c ▸ moved)

/-- Settles O40: a generator that answered stays seeded with its key, so it answers again, with the
block of the next counter. -/
theorem nextNonce : Obligations.NextNonce := by
  refine ⟨fun s t b1 b2 h hok => ?again, fun s bd => ⟨decode_wordR rfl, ?once⟩⟩
  case again =>
    obtain ⟨g, first, -, advanced, -⟩ := wroteNonce_of_result_zero h hok
    have used : generatorUsed t = some t.g := generatorUsed_of_seeded (by rw [advanced])
    obtain ⟨u, run, second, -, -, -, done, -⟩ := ends_gnext_of_some used b2
    refine ⟨u, run, done, ?_⟩
    rw [second, first, advanced]
    exact aes_next_ne g.rk g.ctr
  case once =>
    cases used : generatorUsed s with
    | none => exact ⟨generatorUsed_none s used, ends_gnext_of_none used bd⟩
    | some g => exact ends_gnext_of_some used bd

/-! ### GSEED (R193) -/

/-- Settles O41: GSEED has no check and one write. -/
theorem seedGenerator : Obligations.SeedGenerator := fun s _ =>
  ⟨decode_wordR rfl, ends_next s rfl ⟨rfl, rfl, by simp⟩⟩

end Sys2Proof.Machine

/-! PROOF. The commands on Params, SecretKeys and ciphertext descriptors (45_ore_objects.md R201 to
R218). -/

namespace Sys2Proof.Machine

/-! ### Sizes fit 64 bits (R203) -/

theorem divUp_le {a b : Nat} (hb : 0 < b) : divUp a b ≤ a := by
  refine Nat.lt_succ_iff.mp (Nat.div_lt_of_lt_mul ?_)
  have := Nat.le_mul_of_pos_left a hb
  rw [Nat.mul_succ]
  omega

/-- The size of BASIC Params that meet their bounds. -/
theorem basicLen_lt {nbits obl : Nat} (hn : nbits < 2 ^ 32) (hobl : obl ≤ 128) :
    basicLen nbits obl < 2 ^ 64 :=
  calc basicLen nbits obl ≤ nbits * obl := divUp_le (by decide)
    _ ≤ 2 ^ 32 * 128 := Nat.mul_le_mul hn.le hobl
    _ < 2 ^ 64 := by decide

theorem leftLen_le {nbits bl : Nat} (hn : nbits < 2 ^ 32) (hbl : 1 ≤ bl) :
    leftLen nbits bl ≤ 2 ^ 32 * (16 + 2 ^ 29) := by
  have width : recordWidth nbits ≤ 16 + 2 ^ 29 := by
    rw [recordWidth, divUp]
    omega
  exact Nat.mul_le_mul ((divUp_le hbl).trans hn.le) width

theorem rightLen_le {nbits bl : Nat} (hn : nbits < 2 ^ 32) (hbl : 1 ≤ bl) (hmax : bl ≤ 16) :
    rightLen nbits bl ≤ 16 + 2 ^ 32 * 2 ^ 16 := by
  have vector : vectorBytes bl ≤ 2 ^ 16 :=
    (divUp_le (by decide)).trans (Nat.pow_le_pow_right (by decide) hmax)
  exact Nat.add_le_add_left (Nat.mul_le_mul ((divUp_le hbl).trans hn.le) vector) 16

/-- Initialised Params that meet their bounds have a size below `2^64`. -/
theorem totalLen_lt {p : Params} (hp : paramsValid p) : totalLen p < 2 ^ 64 := by
  obtain ⟨-, hbasic, hblock⟩ := hp
  have hn : p.nbits.toNat < 2 ^ 32 := p.nbits.isLt
  cases hscheme : p.scheme with
  | basic =>
    obtain ⟨-, hmax⟩ := hbasic hscheme
    exact totalLen_of_basic hscheme ▸ basicLen_lt hn hmax
  | block =>
    obtain ⟨hmin, hmax, -⟩ := hblock hscheme
    have left := leftLen_le hn hmin
    have right := rightLen_le hn hmin hmax
    rw [totalLen_of_block hscheme]
    omega

/-! ### CSIZE, CSZL, CSZR (R204 to R206) -/

theorem Scheme.ne_block_iff {c : Scheme} : c ≠ .block ↔ c = .basic := by
  cases c <;> decide

theorem Scheme.ne_basic_iff {c : Scheme} : c ≠ .basic ↔ c = .block := by
  cases c <;> decide

/-- CSZL and CSZR at once: a command that answers a length of BLOCK Params. -/
theorem ends_blockSize {i : Instr} {s : State} {len : Nat → Nat → Nat} {xd : XReg} {prs : PrReg}
    (h : exec i s = .next (s.blockSize len xd prs)) :
    let p := s.getPR prs
    if p.init = false then Ends i s (Raised 2 s)
    else if p.scheme = .basic then Ends i s (Raised 2 s)
    else Ends i s (WroteX xd (BitVec.ofNat 64 (len p.nbits.toNat p.bp.toNat)) s) :=
  ends_checkThen h Iff.rfl (raised_raise s .param) fun _ h =>
    ends_check h Scheme.ne_block_iff (raised_raise s .param) (wroteX_done s xd _)

/-- Settles O43: CSIZE answers `total(p)` of either scheme, the other two a length of BLOCK
Params; Params in bounds bound the size. -/
theorem ciphertextSizes : Obligations.CiphertextSizes := by
  rintro s xd prs ⟨hbounds, -, -⟩
  have csize : if (s.getPR prs).init = false then Ends (.csize xd prs) s (Raised 2 s)
      else Ends (.csize xd prs) s (WroteX xd (BitVec.ofNat 64 (totalLen (s.getPR prs))) s) :=
    ends_check rfl Iff.rfl (raised_raise s .param) (wroteX_done s xd _)
  have cszl := ends_blockSize (i := .cszl xd prs) (s := s) (len := leftLen) rfl
  have cszr := ends_blockSize (i := .cszr xd prs) (s := s) (len := rightLen) rfl
  refine ⟨decode_wordR rfl, decode_wordR rfl, decode_wordR rfl, ?_⟩
  dsimp only at cszl cszr ⊢
  split_ifs at csize cszl cszr ⊢ with hinit hbasic
  · exact ⟨csize, cszl, cszr⟩
  all_goals have bound := totalLen_lt (hbounds prs (Bool.eq_true_of_not_eq_false hinit))
  · rw [totalLen_of_basic hbasic] at csize bound
    exact ⟨bound, csize, cszl, cszr⟩
  · rw [totalLen_of_block (Scheme.ne_basic_iff.1 hbasic)] at csize bound
    exact ⟨bound, csize, cszl, cszr⟩

/-! ### CCLR (R218) -/

/-- Settles O47: the range is overwritten with zeros, whose count is the range's length. -/
theorem clearCiphertext : Obligations.ClearCiphertext := by
  intro s cd hwf
  refine ⟨decode_wordR rfl, ends_check rfl not_or (raised_raise s .ctNotInit)
    ⟨wroteC_stored s _ cd _, fun a ha => ?outside, fun k hk => ?inside⟩⟩
  case outside => exact s.mem.read_writeBytes_outside _ (by rwa [List.length_replicate])
  case inside =>
    exact (Memory.read_writeBytes_inside hwf _ _ k (by rwa [List.length_replicate])).trans
      (List.getElem_replicate _)

/-! ### PINITB and PINITL (R201, R202) -/

/-- Settles O42: the checks in a row raise the same code, so they are the one check that the statement
makes of them. -/
theorem initParams : Obligations.InitParams := by
  intro s prd xn xb
  have refused := raised_raise s .param
  refine ⟨decode_wordR rfl, decode_wordR rfl,
    ends_check (congrArg Host.Outcome.next (ite_or ..).symm) or_assoc refused (wrotePR_done s prd _),
    ends_check (congrArg Host.Outcome.next ((ite_or ..).trans (ite_or ..)).symm) ?checks refused
      (wrotePR_done s prd _)⟩
  case checks => simp only [Config.blockLenMin, Config.blockLenMax, or_assoc]

/-! ### SETUP and SKSET (R210, R212) -/

/-- A SecretKey set up by a command that has left S alone before; `also` is what it has changed. -/
theorem wroteS_setupKey {s u : State} {also : List Part} {par : Params} {prp : Block}
    {key : ExpandedKey} (frame : ChangesOnly also s u)
    (hkey : (if par.scheme = .block then keyExpansion prp else zeroKey) = key) (sd : SReg) (prf : Block)
    (hsk : .sk ∉ also := by decide) :
    WroteS also sd { st := .initialized, par := par, prf := keyExpansion prf, prp := key } s
      (u.setupKey sd par prf prp).done := by
  subst hkey
  refine ⟨by simp [State.setupKey], fun j hj => ?others, rfl, ?frame⟩
  case others => exact (State.setS_getS_ne u sd _ j hj).trans (congrArg (·[j]) (frame .sk hsk))
  case frame => simpa using frame.mono (List.subset_append_right [.sk, .result] also)

theorem oracleAsked_afterDraw (s : State) : OracleAsked 1 s s.afterDraw := ⟨List.drop_one.symm, rfl⟩

theorem oracleAsked_afterDraw_afterDraw (s : State) : OracleAsked 2 s s.afterDraw.afterDraw :=
  ⟨by simp only [State.afterDraw, ← List.drop_one, List.drop_drop], rfl⟩

/-- A command that branches; what it does on either side is a statement of its own. -/
theorem ends_branch {i : Instr} {s u t : State} {p q first second : Prop} [Decidable p] [Decidable q]
    (h : exec i s = .next (if p then u else t)) (hpq : p ↔ q) (hu : q → exec i s = .next u → first)
    (ht : ¬ q → exec i s = .next t → second) : if q then first else second := by
  split
  case isTrue hq => exact hu hq (h.trans (congrArg _ (if_pos (hpq.2 hq))))
  case isFalse hq => exact ht hq (h.trans (congrArg _ (if_neg (mt hpq.1 hq))))

/-- Settles O44: the answers are taken one after another, and the second key is drawn for BLOCK only. -/
theorem setUpSecretKey : Obligations.SetUpSecretKey := by
  refine fun s sd prs => ⟨decode_wordR rfl,
    ends_checkThen rfl Iff.rfl (raised_raise s .param) fun _ h => ?_⟩
  cases hfirst : s.nextAnswer <;> rw [hfirst] at h
  case none => exact ends_next s h (raisedRandomness_one s)
  case some e1 =>
    refine ends_branch h Scheme.ne_block_iff (fun hbasic h => ?basic) fun hblock h => ?block
    case basic =>
      exact ends_next s h ⟨oracleAsked_afterDraw s,
        wroteS_setupKey (by simp) (if_neg (Scheme.ne_block_iff.2 hbasic)) sd e1⟩
    case block =>
      cases hsecond : s.afterDraw.nextAnswer <;> rw [hsecond] at h
      case none => exact ends_next s h (raisedRandomness_two s)
      case some e2 =>
        exact ends_next s h ⟨oracleAsked_afterDraw_afterDraw s,
          wroteS_setupKey (by simp) (if_pos (Scheme.ne_basic_iff.1 hblock)) sd e1⟩

/-- Settles O45: one check and one write. -/
theorem importSecretKey : Obligations.ImportSecretKey := fun s sd _ _ _ =>
  ⟨decode_wordR rfl, ends_check rfl Iff.rfl (raised_raise s .param)
    (wroteS_setupKey (ChangesOnly.refl [] s) rfl sd _)⟩

/-! ### CINIT and CLOAD (R216, R217) -/

/-- CINIT and CLOAD at once: a command that binds a descriptor in the state `st`. -/
theorem ends_bindCiphertext {i : Instr} {s : State} {st : CtState} {cd : CReg} {prs : PrReg}
    {xaddr : XReg} (h : exec i s = .next (s.bindCiphertext st cd prs xaddr)) :
    let p := s.getPR prs
    if p.init = false then Ends i s (Raised 2 s)
    else if s.memSize < s.natX xaddr + totalLen p then Ends i s (Raised 7 s)
    else Ends i s (WroteC [] cd { st := st, par := p, base := s.getX xaddr } s) :=
  ends_checkThen h Iff.rfl (raised_raise s .param) fun _ h =>
    ends_check h Nat.not_le (raised_raise s .alloc) (wroteC_done s [] cd _)

/-- Settles O46: the two commands run the same checks and the same write. -/
theorem bindCiphertext : Obligations.BindCiphertext := by
  intro s cd prs xaddr
  have cinit := ends_bindCiphertext (i := .cinit cd prs xaddr) (s := s) rfl
  have cload := ends_bindCiphertext (i := .cload cd prs xaddr) (s := s) rfl
  refine ⟨decode_wordR rfl, decode_wordR rfl, ?_⟩
  dsimp only at cinit cload ⊢
  split_ifs at cinit cload ⊢ <;> exact ⟨cinit, cload⟩

end Sys2Proof.Machine

/-! PROOF. BasicORE: its ciphertexts block by block, both comparisons at the first difference, the order
that its ciphertexts reveal, and its two commands (46_basic_ore.md R241 to R245, 47_block_ore.md R263). -/

namespace Sys2Proof.Machine

/-! ### Blocks of a ciphertext's value (R241, R243)

Blocks are counted from the least significant one, as the loops of the model count the blocks that are
left: block `k` belongs to bit `k` of the message. -/

/-- Block `k` of the value `v` of a ciphertext, `obl` bits wide. -/
def oreBlock (obl v k : Nat) : Nat := (v >>> (k * obl)) % 2 ^ obl

/-- The block that R241 makes of bit `k` of the message, with the bits above it as those seen
so far. -/
def cipherBlock (prf : ExpandedKey) (nbits obl m k : Nat) : Nat :=
  ((aes prf (pair (nbits - (k + 1)) (m >>> (k + 1)))).toNat % 2 ^ obl + (m >>> k) % 2) % 2 ^ obl

theorem oreBlock_lt (obl v k : Nat) : oreBlock obl v k < 2 ^ obl := Nat.mod_lt _ (by positivity)

theorem cipherBlock_lt (prf : ExpandedKey) (nbits obl m k : Nat) :
    cipherBlock prf nbits obl m k < 2 ^ obl := Nat.mod_lt _ (by positivity)

/-! ### The encryption loop (R241) -/

/-- The bits seen so far take in the next bit of the message. -/
theorem bitsSeen_append {m : Nat} (hm : m < 2 ^ 64) (k : Nat) :
    (((m >>> (k + 1)) <<< 1) ||| (m >>> k) % 2) % 2 ^ 64 = m >>> k := by
  have joined : ((m >>> (k + 1)) <<< 1) ||| (m >>> k) % 2 = m >>> k := joinHalves_halves 1 (m >>> k)
  rw [joined, Nat.mod_eq_of_lt ((Nat.shiftRight_le m k).trans_lt hm)]

/-- A block lands below the blocks already in the accumulator. -/
theorem shiftLeft_or_block (obl k acc block : Nat) :
    (acc <<< ((k + 1) * obl)) ||| (block <<< (k * obl)) = joinHalves obl (acc, block) <<< (k * obl) := by
  rw [joinHalves, Nat.shiftLeft_or_distrib, ← Nat.shiftLeft_add, Nat.succ_mul, Nat.add_comm]

section Encryption

variable {prf : ExpandedKey} {nbits obl m : Nat}

theorem basicEncryptLoop_succ (hm : m < 2 ^ 64) {left : Nat} (hleft : left < nbits) (acc : Nat) :
    basicEncryptLoop prf nbits obl m (left + 1) (m >>> (left + 1)) (acc <<< ((left + 1) * obl)) =
      basicEncryptLoop prf nbits obl m left (m >>> left)
        (joinHalves obl (acc, cipherBlock prf nbits obl m left) <<< (left * obl)) := by
  have bitIndex : nbits - 1 - (nbits - (left + 1)) = left := by omega
  have place : nbits - (nbits - (left + 1)) - 1 = left := by omega
  simp only [basicEncryptLoop, bitIndex, place, bitsSeen_append hm]
  rw [← shiftLeft_or_block]
  rfl

/-- What the loop appends to an accumulator of earlier blocks: it keeps them, and the blocks below
them are those of the message. -/
theorem basicEncryptLoop_blocks (hm : m < 2 ^ 64) {left : Nat} (hleft : left ≤ nbits) (acc : Nat) :
    let v := basicEncryptLoop prf nbits obl m left (m >>> left) (acc <<< (left * obl))
    v >>> (left * obl) = acc ∧ ∀ k, k < left → oreBlock obl v k = cipherBlock prf nbits obl m k := by
  induction left generalizing acc with
  | zero => exact ⟨by simp [basicEncryptLoop], fun k hk => absurd hk (Nat.not_lt_zero k)⟩
  | succ left ih =>
    intro v
    obtain ⟨above, below⟩ := ih (by omega) (joinHalves obl (acc, cipherBlock prf nbits obl m left))
    rw [← basicEncryptLoop_succ hm hleft] at above below
    have apart : halves obl (v >>> (left * obl)) = (acc, cipherBlock prf nbits obl m left) :=
      above ▸ halves_joinHalves (cipherBlock_lt prf nbits obl m left)
    obtain ⟨earlier, newest⟩ := Prod.mk.inj apart
    refine ⟨by rwa [Nat.succ_mul, Nat.shiftRight_add], fun k hk => ?_⟩
    rcases Nat.lt_succ_iff_lt_or_eq.mp hk with hlt | rfl
    · exact below k hlt
    · exact newest

end Encryption

/-! ### The ciphertext as a number (R241, R203) -/

/-- The bytes of a ciphertext have room for its bits. -/
theorem pow_le_pow_basicLen (nbits obl : Nat) : 2 ^ (nbits * obl) ≤ 256 ^ basicLen nbits obl := by
  have room : nbits * obl ≤ 8 * basicLen nbits obl := by
    rw [basicLen, divUp]
    omega
  calc 2 ^ (nbits * obl) ≤ 2 ^ (8 * basicLen nbits obl) := Nat.pow_le_pow_right (by decide) room
    _ = 256 ^ basicLen nbits obl := Nat.pow_mul 2 8 _

/-- A ciphertext has no bit above its blocks, and its blocks are those of the message. -/
theorem be_basicEncrypt_blocks (prf : ExpandedKey) {nbits : Nat} (obl msg : Nat) (hn : nbits ≤ 64) :
    be (basicEncrypt prf nbits obl msg) < 2 ^ (nbits * obl) ∧
      ∀ k, k < nbits → oreBlock obl (be (basicEncrypt prf nbits obl msg)) k =
        cipherBlock prf nbits obl (msg % 2 ^ nbits) k := by
  have hm : msg % 2 ^ nbits < 2 ^ nbits := Nat.mod_lt _ (by positivity)
  have hword : 2 ^ nbits ≤ 2 ^ 64 := Nat.pow_le_pow_right (by decide) hn
  have noBitSeen : (msg % 2 ^ nbits) >>> nbits = 0 := Nat.shiftRight_eq_zero _ _ hm
  obtain ⟨nothingAbove, blocks⟩ :=
    basicEncryptLoop_blocks (prf := prf) (obl := obl) (hm.trans_le hword) (le_refl nbits) 0
  rw [noBitSeen, Nat.zero_shiftLeft] at nothingAbove blocks
  have bound : basicEncryptLoop prf nbits obl (msg % 2 ^ nbits) nbits 0 0 < 2 ^ (nbits * obl) := by
    rwa [Nat.shiftRight_eq_div_pow, Nat.div_eq_zero_iff_lt (by positivity)] at nothingAbove
  rw [basicEncrypt, be_toBE, Nat.mod_eq_of_lt (bound.trans_le (pow_le_pow_basicLen nbits obl))]
  exact ⟨bound, blocks⟩

/-- Settles O18: block `i` from the front is the block of bit `nbits - 1 - i`. -/
theorem basicEncryptBlocks : Obligations.BasicEncryptBlocks := by
  intro prf nbits obl msg hn _ _ _
  obtain ⟨bound, blocks⟩ := be_basicEncrypt_blocks prf obl msg hn
  refine ⟨basicEncrypt_length prf nbits obl msg, bound, fun i hi => ?_⟩
  have index : nbits - (nbits - 1 - i + 1) = i := by omega
  have above : nbits - 1 - i + 1 = nbits - i := by omega
  have block := blocks (nbits - 1 - i) (by omega)
  rwa [cipherBlock, index, above] at block

/-! ### Scans that stop at the first difference (R243, R263) -/

/-- A loop over the last `left` of `n` blocks that passes over the first `i` of them goes on with the
others. -/
theorem loop_skips {α : Type} {loop : Nat → α} {n i : Nat} (hi : i ≤ n)
    (h : ∀ j, j < i → loop (n - 1 - j + 1) = loop (n - 1 - j)) : loop n = loop (n - i) := by
  induction i with
  | zero => rfl
  | succ i ih =>
    have skip := h i (Nat.lt_succ_self i)
    rw [ih (by omega) fun j hj => h j (by omega), show n - i = n - 1 - i + 1 by omega, skip,
      show n - 1 - i = n - (i + 1) by omega]

/-- The difference modulo `2^obl` that R243 takes between the blocks `k` of two values. -/
def blockDiff (obl va vb k : Nat) : Nat :=
  (oreBlock obl va k + 2 ^ obl - oreBlock obl vb k) % 2 ^ obl

theorem basicCompareLoop_succ (obl va vb left : Nat) :
    basicCompareLoop obl va vb (left + 1) =
      if blockDiff obl va vb left = 0 then basicCompareLoop obl va vb left
      else if blockDiff obl va vb left = 1 then 1 else -1 :=
  ite_not ..

theorem blockDiff_eq_zero_iff (obl va vb k : Nat) :
    blockDiff obl va vb k = 0 ↔ oreBlock obl va k = oreBlock obl vb k := by
  have ha := oreBlock_lt obl va k
  have hb := oreBlock_lt obl vb k
  rw [blockDiff]
  rcases lt_or_ge (oreBlock obl va k) (oreBlock obl vb k) with hlt | hge
  · rw [Nat.mod_eq_of_lt (by omega)]
    omega
  · rw [Nat.sub_add_comm hge, Nat.add_mod_right, Nat.mod_eq_of_lt (by omega)]
    omega

section Scans

variable (nbits obl bl : Nat) (ca cb leftA leftB rightB : List Byte)

theorem basicCompareLoop_of_eq {va vb left : Nat} (h : oreBlock obl va left = oreBlock obl vb left) :
    basicCompareLoop obl va vb (left + 1) = basicCompareLoop obl va vb left := by
  rw [basicCompareLoop_succ, if_pos ((blockDiff_eq_zero_iff ..).2 h)]

/-- BasicCompare passes over leading blocks that agree. -/
theorem basicCompare_eq_loop {i : Nat} (hi : i ≤ nbits)
    (h : ∀ j, j < i → oreBlock obl (be ca) (nbits - 1 - j) = oreBlock obl (be cb) (nbits - 1 - j)) :
    basicCompare nbits obl ca cb = basicCompareLoop obl (be ca) (be cb) (nbits - i) :=
  loop_skips hi fun j hj => basicCompareLoop_of_eq obl (h j hj)

theorem basicCompare_self : basicCompare nbits obl ca ca = 0 := by
  rw [basicCompare_eq_loop nbits obl ca ca le_rfl fun _ _ => rfl, Nat.sub_self]
  rfl

/-- At the first differing block the difference 1 decides. -/
theorem basicCompare_of_first_ne {i : Nat} (hi : i < nbits)
    (h : ∀ j, j < i → oreBlock obl (be ca) (nbits - 1 - j) = oreBlock obl (be cb) (nbits - 1 - j))
    (hne : oreBlock obl (be ca) (nbits - 1 - i) ≠ oreBlock obl (be cb) (nbits - 1 - i)) :
    basicCompare nbits obl ca cb =
      if blockDiff obl (be ca) (be cb) (nbits - 1 - i) = 1 then 1 else -1 := by
  rw [basicCompare_eq_loop nbits obl ca cb hi.le h, show nbits - i = nbits - 1 - i + 1 by omega,
    basicCompareLoop_succ, if_neg (mt (blockDiff_eq_zero_iff ..).1 hne)]

theorem blockCompareLoop_succ (nb left : Nat) :
    blockCompareLoop nbits bl nb leftA leftB rightB (left + 1) =
      if slice leftA ((nb - (left + 1)) * recordWidth nbits) 16 =
          slice leftB ((nb - (left + 1)) * recordWidth nbits) 16
      then blockCompareLoop nbits bl nb leftA leftB rightB left
      else blockDecide nbits bl (nb - (left + 1)) leftA rightB :=
  ite_not ..

/-- BlockCompare passes over leading blocks whose key values agree. -/
theorem blockCompare_eq_loop {i : Nat} (hi : i ≤ nblocks nbits bl)
    (h : ∀ j, j < i →
      slice leftA (j * recordWidth nbits) 16 = slice leftB (j * recordWidth nbits) 16) :
    blockCompare nbits bl leftA leftB rightB =
      blockCompareLoop nbits bl (nblocks nbits bl) leftA leftB rightB (nblocks nbits bl - i) := by
  refine loop_skips hi fun j hj => ?_
  have index : nblocks nbits bl - (nblocks nbits bl - 1 - j + 1) = j := by omega
  rw [blockCompareLoop_succ, index, if_pos (h j hj)]

theorem blockCompare_of_first_ne {i : Nat} (hi : i < nblocks nbits bl)
    (h : ∀ j, j < i →
      slice leftA (j * recordWidth nbits) 16 = slice leftB (j * recordWidth nbits) 16)
    (hne : slice leftA (i * recordWidth nbits) 16 ≠ slice leftB (i * recordWidth nbits) 16) :
    blockCompare nbits bl leftA leftB rightB = blockDecide nbits bl i leftA rightB := by
  have index : nblocks nbits bl - (nblocks nbits bl - 1 - i + 1) = i := by omega
  rw [blockCompare_eq_loop nbits bl leftA leftB rightB hi.le h,
    show nblocks nbits bl - i = nblocks nbits bl - 1 - i + 1 by omega, blockCompareLoop_succ, index,
    if_neg hne]

/-- A vector bit and a mask bit as numbers, and as Booleans. -/
theorem bit_xor_mask_iff (vec pix : Nat) (b : Block) :
    (vec >>> pix) % 2 ^^^ (b.extractLsb' 0 1).toNat = 1 ↔ (vec.testBit pix ^^ b.getLsbD 0) = true := by
  have mask : (b.extractLsb' 0 1).toNat = (b.getLsbD 0).toNat := by
    rw [BitVec.extractLsb'_toNat, BitVec.getLsbD, Nat.toNat_testBit, Nat.shiftRight_eq_div_pow, pow_one]
  rw [mask, Nat.shiftRight_eq_div_pow, ← Nat.toNat_testBit]
  cases vec.testBit pix <;> cases b.getLsbD 0 <;> decide

/-- What the first differing block decides, in bits (R263). -/
theorem blockDecide_eq (i : Nat) :
    blockDecide nbits bl i leftA rightB =
      let pix := be (slice leftA (i * recordWidth nbits + 16) (divUp bl 8))
      if 2 ^ bl ≤ pix then none
      else if ((be (slice rightB (16 + i * vectorBytes bl) (vectorBytes bl))).testBit pix ^^
        (aes (keyExpansion (blockOfBytes (slice rightB 0 16)))
          (blockOfBytes (slice leftA (i * recordWidth nbits) 16))).getLsbD 0) = true
      then some (-1) else some 1 := by
  simp only [blockDecide, randomOracle, bit_xor_mask_iff]

end Scans

/-- Settles O20: each scan passes over the blocks that agree, to the end or to the one that decides. -/
theorem compareDecidesAtFirstDifference : Obligations.CompareDecidesAtFirstDifference := by
  refine ⟨fun nbits obl ca cb => ⟨fun agree => ?basicEqual, fun i hi agree differ => ?basicFirst⟩,
    fun nbits bl leftA leftB rightB => ⟨fun agree => ?blockEqual, fun i hi agree differ => ?blockFirst⟩⟩
  case basicEqual =>
    have scan := basicCompare_eq_loop nbits obl ca cb le_rfl agree
    rwa [Nat.sub_self] at scan
  case basicFirst => exact basicCompare_of_first_ne nbits obl ca cb hi agree differ
  case blockEqual =>
    have scan := blockCompare_eq_loop nbits bl leftA leftB rightB le_rfl agree
    rwa [Nat.sub_self] at scan
  case blockFirst =>
    exact (blockCompare_of_first_ne nbits bl leftA leftB rightB hi agree differ).trans
      (blockDecide_eq nbits bl leftA rightB i)

/-! ### The order that ciphertexts reveal (R245) -/

/-- Two blocks made with one PRF value differ by what the message bits differ by. -/
theorem add_mod_sub_add_mod {n c : Nat} (y b : Nat) (hn : 0 < n) (hc : c ≤ n) :
    ((y + b) % n + n - (y + c) % n) % n = (b + n - c) % n := by
  have hblock : (y + c) % n < n := Nat.mod_lt _ hn
  refine Nat.ModEq.add_right_cancel' (y + c) ?_
  calc (y + b) % n + n - (y + c) % n + (y + c)
      ≡ (y + b) % n + n - (y + c) % n + (y + c) % n [MOD n] := (Nat.mod_modEq _ n).symm.add_left _
    _ = (y + b) % n + n := Nat.sub_add_cancel (by omega)
    _ ≡ y + b + n [MOD n] := (Nat.mod_modEq _ n).add_right n
    _ = b + n - c + (y + c) := by omega

/-- Bits that differ are 1 apart modulo `n` only where the first one is the 1. -/
theorem bit_sub_bit_mod {n b c : Nat} (hn : 4 ≤ n) (hb : b < 2) (hc : c < 2) (hne : b ≠ c) :
    (b + n - c) % n = if b = 1 then 1 else n - 1 := by
  split
  case isTrue hone =>
    obtain ⟨rfl, rfl⟩ : b = 1 ∧ c = 0 := by omega
    rw [Nat.sub_zero, Nat.add_mod_right, Nat.mod_eq_of_lt (by omega)]
  case isFalse hzero =>
    obtain ⟨rfl, rfl⟩ : b = 0 ∧ c = 1 := by omega
    rw [Nat.zero_add, Nat.mod_eq_of_lt (by omega)]

theorem order_self (a : Nat) : order a a = 0 := by simp [order]

/-- Numbers compare as their upper bits do, where these differ. -/
theorem order_shiftRight {x y k : Nat} (h : x >>> k ≠ y >>> k) :
    order x y = order (x >>> k) (y >>> k) := by
  have mono {a b : Nat} (hab : a ≤ b) : a >>> k ≤ b >>> k := by
    simpa only [Nat.shiftRight_eq_div_pow] using Nat.div_le_div_right hab
  rcases lt_or_gt_of_ne h with hlt | hgt
  · have : x < y := lt_of_not_ge fun hle => absurd (mono hle) (by omega)
    rw [order, order, if_pos this, if_pos hlt]
  · have : y < x := lt_of_not_ge fun hle => absurd (mono hle) (by omega)
    rw [order, order, if_neg (by omega), if_neg (by omega), if_neg (by omega), if_neg (by omega)]

/-- Numbers that differ in their last bit only compare as it does. -/
theorem order_of_lastBit_ne {x y : Nat} (above : x / 2 = y / 2) (hbit : x % 2 ≠ y % 2) :
    order x y = if x % 2 = 1 then 1 else -1 := by
  rw [order]
  split_ifs <;> omega

/-- Messages that agree above bit `k` compare as their bits `k` do, where these differ. -/
theorem order_of_bit_ne {x y k : Nat} (above : x >>> (k + 1) = y >>> (k + 1))
    (hbit : (x >>> k) % 2 ≠ (y >>> k) % 2) : order x y = if (x >>> k) % 2 = 1 then 1 else -1 := by
  rw [Nat.shiftRight_succ, Nat.shiftRight_succ] at above
  rw [order_shiftRight (ne_of_apply_ne (· % 2) hbit), order_of_lastBit_ne above hbit]

section Order

variable {prf : ExpandedKey} {nbits obl x y va vb : Nat}

/-- The blocks of two messages at bit `k`, below bits that agree. -/
theorem blockDiff_of_cipherBlock {k : Nat} (ha : oreBlock obl va k = cipherBlock prf nbits obl x k)
    (hb : oreBlock obl vb k = cipherBlock prf nbits obl y k) (above : x >>> (k + 1) = y >>> (k + 1)) :
    blockDiff obl va vb k = ((x >>> k) % 2 + 2 ^ obl - (y >>> k) % 2) % 2 ^ obl := by
  have hbit : (y >>> k) % 2 ≤ 2 ^ obl :=
    (Nat.lt_succ_iff.1 (Nat.mod_lt _ (by decide))).trans Nat.one_le_two_pow
  rw [blockDiff, ha, hb, cipherBlock, cipherBlock, above]
  exact add_mod_sub_add_mod _ _ (by positivity) hbit

/-- The comparison of what is left of two ciphertexts of one key, once the messages' bits above agree. -/
theorem basicCompareLoop_eq_order (hobl : 2 ≤ obl) {left : Nat}
    (ha : ∀ k, k < left → oreBlock obl va k = cipherBlock prf nbits obl x k)
    (hb : ∀ k, k < left → oreBlock obl vb k = cipherBlock prf nbits obl y k)
    (above : x >>> left = y >>> left) : basicCompareLoop obl va vb left = order x y := by
  induction left with
  | zero =>
    obtain rfl : x = y := above
    exact (order_self x).symm
  | succ left ih =>
    have hfour : 2 ^ 2 ≤ 2 ^ obl := Nat.pow_le_pow_right (by decide) hobl
    have diff := blockDiff_of_cipherBlock (ha left left.lt_succ_self) (hb left left.lt_succ_self) above
    rw [basicCompareLoop_succ, diff]
    by_cases hbit : (x >>> left) % 2 = (y >>> left) % 2
    · rw [hbit, Nat.add_sub_cancel_left, Nat.mod_self, if_pos rfl]
      rw [Nat.shiftRight_succ, Nat.shiftRight_succ] at above
      exact ih (fun k hk => ha k (by omega)) (fun k hk => hb k (by omega)) (by omega)
    · rw [bit_sub_bit_mod hfour (Nat.mod_lt _ (by decide)) (Nat.mod_lt _ (by decide)) hbit,
        order_of_bit_ne above hbit]
      split
      · rw [if_neg one_ne_zero, if_pos rfl]
      · rw [if_neg (by omega), if_neg (by omega)]

end Order

/-- Settles O22: the scan starts with no bit seen, on blocks that are those of the messages. -/
theorem basicOrderIsRevealed : Obligations.BasicOrderIsRevealed := by
  intro prf nbits obl x y hn hobl _
  obtain ⟨-, blocksX⟩ := be_basicEncrypt_blocks prf obl x hn
  obtain ⟨-, blocksY⟩ := be_basicEncrypt_blocks prf obl y hn
  have noBitSeen (z : Nat) : (z % 2 ^ nbits) >>> nbits = 0 :=
    Nat.shiftRight_eq_zero _ _ (Nat.mod_lt _ (by positivity))
  exact basicCompareLoop_eq_order hobl blocksX blocksY ((noBitSeen x).trans (noBitSeen y).symm)

/-! ### OREENC and ORECMP (R242, R244) -/

/-- Settles O48: the checks in order, then the ciphertext's bytes inside the range, of its length. -/
theorem basicEncryptCommand : Obligations.BasicEncryptCommand := by
  intro s cd ss xmsg hwf
  refine ⟨decode_wordR rfl, ends_checkThen rfl Iff.rfl (raised_raise s .keyNotInit) fun _ h =>
    ends_checkThen h not_or (raised_raise s .ctNotInit) fun _ h =>
    ends_checkThen h Iff.rfl (raised_raise s .paramsMismatch) fun _ h =>
    ends_checkThen h Iff.rfl (raised_raise s .param) fun _ h =>
    ends_check h Iff.rfl (raised_raise s .unsupported)
      ⟨wroteC_stored s _ cd _, fun a ha => ?outside, ?inside⟩⟩
  case outside => exact s.mem.read_writeBytes_outside _ (by rwa [basicEncrypt_length])
  case inside =>
    have stored := Memory.bytes_writeBytes hwf (s.getC cd).base.toNat
      (basicEncrypt (s.getS ss).prf (s.getC cd).par.nbits.toNat (s.getC cd).par.bp.toNat (s.natX xmsg))
    rwa [basicEncrypt_length] at stored

theorem basicCompareLoop_range (obl va vb left : Nat) :
    basicCompareLoop obl va vb left = -1 ∨ basicCompareLoop obl va vb left = 0 ∨
      basicCompareLoop obl va vb left = 1 := by
  induction left with
  | zero => exact .inr (.inl rfl)
  | succ left ih =>
    rw [basicCompareLoop_succ]
    split_ifs
    · exact ih
    · exact .inr (.inr rfl)
    · exact .inl rfl

/-- The three comparison results as words (R244). -/
theorem compareWord_eq {r : Int} (h : r = -1 ∨ r = 0 ∨ r = 1) :
    compareWord r = if r = -1 then 0xFFFFFFFFFFFFFFFF else if r = 0 then 0 else 1 := by
  rcases h with rfl | rfl | rfl <;> rfl

/-- Settles O49: the checks in order; the result is one of three numbers, and the comparison of a
byte string with itself passes over every block. -/
theorem basicCompareCommand : Obligations.BasicCompareCommand := by
  intro s xd ca cb
  refine ⟨decode_wordR rfl, ends_checkThen rfl Iff.rfl (raised_raise s .ctNotInit) fun _ h =>
    ends_checkThen h Iff.rfl (raised_raise s .paramsMismatch) fun _ h =>
    ends_checkThen h Iff.rfl (raised_raise s .param) fun _ h =>
    ⟨basicCompareLoop_range .., ?same, ends_wroteX h (compareWord_eq (basicCompareLoop_range ..))⟩⟩
  case same =>
    rintro rfl
    exact basicCompare_self ..

end Sys2Proof.Machine

/-! PROOF. Rules about every command: none stops the engine, each returns the codes of its row only, and
an error leaves the engine as it was (60_exceptions.md R292, R293, R295, R298). -/

namespace Sys2Proof.Machine

/-! ### No command stops (R295, R298) -/

/-- Every meaning answers a next state on every path. -/
theorem exec_next (i : Instr) (s : State) : ∃ t, exec i s = .next t := by
  cases i <;> exact ⟨_, rfl⟩

/-- The host's accesses outside M are all that a step refuses. -/
theorem refused_of_transact {tx : HostTx} {s : State} {r : Refusal}
    (h : transactWith exec tx s = .refused r) :
    r = .hostRangeOutsideMemory ∧ ((∃ a n, tx = .readMem a n ∧ s.memSize < a + n) ∨
      ∃ a bytes, tx = .writeMem a bytes ∧ s.memSize < a + bytes.length) := by
  cases tx with
  | issue w =>
    simp only [transactWith, issueWith] at h
    cases hd : decode w with
    | error e => simp [hd, issueReply] at h
    | ok i =>
      obtain ⟨t, ht⟩ := exec_next i s
      simp [hd, ht, issueReply] at h
  | readX i | writeX i v | readB i | writeB i v | readCR n | reset => nomatch h
  | readMem a n =>
    simp only [transactWith] at h
    split at h
    · nomatch h
    · next outside =>
      exact ⟨(Host.Outcome.refused.inj h).symm, .inl ⟨a, n, rfl, Nat.not_le.1 outside⟩⟩
  | writeMem a bytes =>
    simp only [transactWith] at h
    split at h
    · nomatch h
    · next outside =>
      exact ⟨(Host.Outcome.refused.inj h).symm, .inr ⟨a, bytes, rfl, Nat.not_le.1 outside⟩⟩

/-- Settles O7: commands answer next states, so only a host access is ever refused; there is no fault. -/
theorem engineNeverStops : Obligations.EngineNeverStops := by
  refine ⟨exec_next, fun s => step_of_inbox_nil, fun s r => (nomatch r), fun s r h => ?_⟩
  cases hin : s.inbox with
  | nil =>
    rw [step_of_inbox_nil hin] at h
    nomatch h
  | cons tx rest =>
    rw [step_of_inbox hin] at h
    obtain ⟨hr, ⟨a, n, rfl, outside⟩ | ⟨a, bytes, rfl, outside⟩⟩ := refused_of_transact h
    · exact ⟨hr, rest, .inl ⟨a, n, rfl, outside⟩⟩
    · exact ⟨hr, rest, .inr ⟨a, bytes, rfl, outside⟩⟩

/-! ### Codes and errors (R292, R293) -/

/-- Settles O53: the codes of each command are read off its paths in `exec_result_mem`. -/
theorem resultCodesOfEachCommand : Obligations.ResultCodesOfEachCommand := fun _ _ _ => exec_result_mem

/-- The ways a command ends: it completes; it raises a code in the state it found; or it raises
`E_RANDOMNESS` after one request to the oracle, or after the second one of SETUP (log 6). -/
inductive State.EndsIn (s : State) : State → Prop where
  | completed (u : State) : s.EndsIn u.done
  | raised (c : ResultCode) : s.EndsIn (s.raise c)
  | noAnswer : s.EndsIn (s.afterDraw.raise .randomness)
  | noSecondAnswer : s.EndsIn (s.afterDraw.afterDraw.raise .randomness)

theorem prpSingle_endsIn (s : State) (f : PrpKeys → Nat → Nat → Nat) (xd : XReg) (ps : PReg)
    (xs xn : XReg) : s.EndsIn (s.prpSingle f xd ps xs xn) := by
  simp only [State.prpSingle]
  split_ifs <;> constructor

theorem prpTable_endsIn (s : State) (f : PrpKeys → Nat → Nat → Nat) (ps : PReg) (xdst xn : XReg) :
    s.EndsIn (s.prpTable f ps xdst xn) := by
  simp only [State.prpTable]
  split_ifs <;> constructor

theorem blockSize_endsIn (s : State) (len : Nat → Nat → Nat) (xd : XReg) (prs : PrReg) :
    s.EndsIn (s.blockSize len xd prs) := by
  rw [State.blockSize]
  split_ifs <;> constructor

theorem bindCiphertext_endsIn (s : State) (st : CtState) (cd : CReg) (prs : PrReg) (xaddr : XReg) :
    s.EndsIn (s.bindCiphertext st cd prs xaddr) := by
  rw [State.bindCiphertext]
  split_ifs <;> constructor

/-- `GenNext` fails after its one request, with G as it was. -/
theorem eq_afterDraw_of_genNext {s t : State} (h : s.genNext = (none, t)) : t = s.afterDraw := by
  rw [genNext_eq] at h
  split at h
  · exact (Prod.mk.inj h).2.symm
  · nomatch h

theorem exec_endsIn {i : Instr} {s t : State} (h : exec i s = .next t) : s.EndsIn t := by
  cases i <;> obtain rfl := Host.Outcome.next.inj h
  -- straight-line commands
  case nop | li | lih | mkb | xbh | xbl | kexp | ro | gseed => exact .completed _
  -- a chain of checks before the command's own writes
  case ldb | stb | kexpm | kclr | aese | prf | pkexp | pclr | csize | skset | sclr | cclr =>
    split_ifs <;> constructor
  case aesem | prfm | rom | pinitb | pinitl | oreenc | orecmp =>
    dsimp only
    split_ifs <;> constructor
  case prpe | prpd => exact prpSingle_endsIn _ _ _ _ _ _
  case prpea | prpda => exact prpTable_endsIn _ _ _ _ _
  case cszl | cszr => exact blockSize_endsIn _ _ _ _
  case cinit | cload => exact bindCiphertext_endsIn _ _ _ _ _
  -- commands that also turn on an answer of the oracle or on a comparison
  case kgen | setup =>
    repeat' split
    all_goals constructor
  case obcmp =>
    dsimp only
    repeat' split
    all_goals constructor
  case gnext =>
    rcases hu : s.genNext with ⟨_ | v, u⟩
    · exact eq_afterDraw_of_genNext hu ▸ .noAnswer
    · exact .completed _
  case obenc =>
    dsimp only
    split_ifs
    iterate 5 exact .raised _
    · rcases hu : s.genNext with ⟨_ | v, u⟩
      · exact eq_afterDraw_of_genNext hu ▸ .noAnswer
      · exact .completed _
    · exact .raised _

/-- Settles O52: a command that does not complete writes RESULT, and before that at most asks the
oracle, which ends with code 1. -/
theorem errorsHaveNoSideEffect : Obligations.ErrorsHaveNoSideEffect := by
  intro i s t h failed
  cases exec_endsIn h with
  | completed u => exact absurd rfl failed
  | raised c => exact ⟨rfl, fun _ => ⟨rfl, rfl⟩⟩
  | noAnswer | noSecondAnswer => exact ⟨rfl, fun code => absurd rfl code⟩

end Sys2Proof.Machine

/-! PROOF. BlockORE: its ciphertexts record by record and slot by slot, the order that they reveal, and its
two commands (47_block_ore.md R260 to R265). -/

namespace Sys2Proof.Machine

/-! ### Blocks as byte strings (00_scope.md R12) -/

theorem toBE_block (b : Block) : toBE b.toNat 16 = blockBytes b := by
  refine List.map_congr_left fun k hk => BitVec.eq_of_toNat_eq ?_
  rw [blockByte_toNat b (List.mem_range.1 hk), BitVec.toNat_ofNat]

theorem blockOfBytes_blockBytes (b : Block) : blockOfBytes (blockBytes b) = b := by
  rw [← toBE_block, blockOfBytes, be_toBE, Nat.mod_eq_of_lt (show b.toNat < 256 ^ 16 from b.isLt),
    BitVec.ofNat_toNat, BitVec.setWidth_eq]

theorem blockBytes_injective : Function.Injective blockBytes :=
  Function.LeftInverse.injective blockOfBytes_blockBytes

/-- A string of `ceil(n / 8)` bytes has room for `n` bits. -/
theorem pow_le_pow_divUp (n : Nat) : 2 ^ n ≤ 256 ^ divUp n 8 := by
  simpa [basicLen] using pow_le_pow_basicLen n 1

/-- `n` bits written as `ceil(n / 8)` bytes read back. -/
theorem be_toBE_divUp {v n : Nat} (hv : v < 2 ^ n) : be (toBE v (divUp n 8)) = v := by
  rw [be_toBE, Nat.mod_eq_of_lt (hv.trans_le (pow_le_pow_divUp n))]

/-! ### Slices of byte strings -/

/-- A slice of what follows a string of known length. -/
theorem slice_append_right {a : List Byte} {k : Nat} (ha : a.length = k) (b : List Byte) (off n : Nat) :
    slice (a ++ b) (k + off) n = slice b off n := by
  subst ha
  rw [slice, slice, List.drop_length_add_append]

theorem slice_append_left {a : List Byte} {off n : Nat} (h : off + n ≤ a.length) (b : List Byte) :
    slice (a ++ b) off n = slice a off n := by
  rw [slice, slice, List.drop_append_of_le_length (by omega),
    List.take_append_of_le_length (by rw [List.length_drop]; omega)]

/-- The whole of a string. -/
theorem slice_self {a : List Byte} {n : Nat} (h : a.length = n) : slice a 0 n = a :=
  List.take_of_length_le h.le

/-- A slice inside the `i`-th of a row of strings of one length. -/
theorem slice_flatMap {α : Type} {f : α → List Byte} {w : Nat} (hf : ∀ x, (f x).length = w)
    {l : List α} {i : Nat} (hi : i < l.length) {off n : Nat} (hn : off + n ≤ w) :
    slice (l.flatMap f) (i * w + off) n = slice (f l[i]) off n := by
  induction l generalizing i with
  | nil => exact absurd hi (Nat.not_lt_zero i)
  | cons x rest ih =>
    rw [List.flatMap_cons]
    cases i with
    | zero =>
      rw [Nat.zero_mul, Nat.zero_add, slice_append_left (by rw [hf]; exact hn)]
      rfl
    | succ i =>
      rw [Nat.succ_mul, Nat.add_comm (i * w), Nat.add_assoc, slice_append_right (hf x),
        ih (Nat.lt_of_succ_lt_succ hi)]
      rfl

/-! ### A record of a ciphertext (R261 steps 1 to 4) -/

/-- A natural whose bits below `n` are set one after another. -/
theorem testBit_foldl_or {b : Nat → Nat} (hb : ∀ j, b j < 2) (n j : Nat) :
    ((List.range n).foldl (fun vec j => vec ||| (b j <<< j)) 0).testBit j =
      (decide (j < n) && (b j).testBit 0) := by
  induction n with
  | zero => simp
  | succ n ih =>
    rw [List.range_succ, List.foldl_append, List.foldl_cons, List.foldl_nil, Nat.testBit_or, ih,
      Nat.testBit_shiftLeft]
    rcases lt_trichotomy j n with hlt | rfl | hgt
    · simp [hlt, hlt.trans (Nat.lt_succ_self n)]
    · simp
    · have above : (b n).testBit (j - n) = false :=
        Nat.testBit_lt_two_pow ((hb n).trans_le (Nat.le_pow (by omega)))
      simp [above, show ¬ j < n by omega, show ¬ j < n + 1 by omega]

/-- `pair` keeps its second number modulo `2^64` (00_scope.md R13). -/
theorem pair_eq_pair_iff {i p q : Nat} : pair i p = pair i q ↔ p ≡ q [MOD 2 ^ 64] := by
  rw [pair, pair, BitVec.append_right_inj, ← BitVec.toNat_inj, BitVec.toNat_ofNat, BitVec.toNat_ofNat]
  rfl

section Record

variable (prf prp : ExpandedKey) (nonce : Block) (bl i pre v : Nat)

/-- The PRP keys of block `i`, where `pre` is what the chunks before it are together (R261 step 1). -/
def chunkKeys : PrpKeys := prpKeyExpand (keyExpansion (aes prp (pair i pre)))

/-- The PRF value of slot `x` of block `i` (R261 steps 3 and 4). -/
def slotKey (x : Nat) : Block := aes prf (pair i (pre <<< bl ||| x))

theorem prfFix_slotInput (x : Nat) : prfFix prf (slotInput i pre bl x) = slotKey prf bl i pre x := by
  rw [prfFix, slotInput, slotKey, pair_eq_pair_iff.2 (Nat.mod_modEq _ _)]

theorem slotBit_lt (keys : PrpKeys) (j : Nat) : slotBit prf keys nonce bl i pre v j < 2 := by
  refine Nat.xor_lt_two_pow (n := 1) ?_ (BitVec.isLt _)
  split <;> decide

theorem testBit_slotBit (keys : PrpKeys) (j : Nat) :
    (slotBit prf keys nonce bl i pre v j).testBit 0 =
      (decide (prpInv keys j bl ≤ v) ^^ (aes (keyExpansion nonce) (slotKey prf bl i pre j)).getLsbD 0) := by
  have mask (b : Block) : (b.extractLsb' 0 1).toNat.testBit 0 = b.getLsbD 0 := by
    rw [BitVec.testBit_toNat, BitVec.getLsbD_extractLsb']
    simp
  rw [slotBit, Nat.testBit_xor, prfFix_slotInput, randomOracle, mask]
  split <;> simp [*]

theorem blockRecord_key : (blockRecord prf prp nonce bl i pre v).key =
    slotKey prf bl i pre (prpFwd (chunkKeys prp i pre) v bl) :=
  prfFix_slotInput ..

theorem blockRecord_pix :
    (blockRecord prf prp nonce bl i pre v).pix = prpFwd (chunkKeys prp i pre) v bl := rfl

/-- Slot `j` of the right vector: how chunk value `j` would compare, masked (R261 step 4). -/
theorem testBit_blockRecord_vec (j : Nat) : (blockRecord prf prp nonce bl i pre v).vec.testBit j =
    (decide (j < 2 ^ bl) && (decide (prpInv (chunkKeys prp i pre) j bl ≤ v) ^^
      (aes (keyExpansion nonce) (slotKey prf bl i pre j)).getLsbD 0)) := by
  rw [blockRecord, testBit_foldl_or (slotBit_lt prf nonce bl i pre v _), testBit_slotBit, chunkKeys]

theorem blockRecord_vec_lt : (blockRecord prf prp nonce bl i pre v).vec < 2 ^ 2 ^ bl := by
  refine Nat.lt_pow_two_of_testBit _ fun j hj => ?_
  rw [testBit_blockRecord_vec, decide_eq_false (Nat.not_lt.2 hj), Bool.false_and]

end Record

/-! ### The chunks of a message (R261 step 5, R203)

Chunk `i`, most significant first, and the chunks before it, as the loop of R261 finds them. -/

/-- Chunk `i` of a message. -/
def chunk (nbits bl msg i : Nat) : Nat :=
  ((msg % 2 ^ nbits) >>> ((nblocks nbits bl - 1 - i) * bl)) % 2 ^ bl

/-- What the chunks before chunk `i` are together. -/
def chunkPrefix (nbits bl msg i : Nat) : Nat := (msg % 2 ^ nbits) >>> ((nblocks nbits bl - i) * bl)

section Chunks

variable {nbits bl msg x y i : Nat}

theorem chunk_lt : chunk nbits bl msg i < 2 ^ bl := Nat.mod_lt _ (by positivity)

theorem message_lt : msg % 2 ^ nbits < 2 ^ nbits := Nat.mod_lt _ (by positivity)

/-- What has been seen takes in the next chunk. -/
theorem chunkPrefix_succ (hi : i < nblocks nbits bl) : chunkPrefix nbits bl msg (i + 1) =
    joinHalves bl (chunkPrefix nbits bl msg i, chunk nbits bl msg i) := by
  have next : nblocks nbits bl - (i + 1) = nblocks nbits bl - 1 - i := by omega
  have width : nblocks nbits bl - i = nblocks nbits bl - 1 - i + 1 := by omega
  rw [chunkPrefix, chunkPrefix, chunk, next, width, Nat.succ_mul, Nat.shiftRight_add]
  exact (joinHalves_halves bl _).symm

/-- With `nbits <= 64` the reduction modulo `2^64` in step 5 never changes a value. -/
theorem chunkPrefix_lt_word (hword : nbits ≤ 64) : chunkPrefix nbits bl msg i < 2 ^ 64 :=
  calc chunkPrefix nbits bl msg i ≤ msg % 2 ^ nbits := Nat.shiftRight_le _ _
    _ < 2 ^ nbits := message_lt
    _ ≤ 2 ^ 64 := Nat.pow_le_pow_right (by decide) hword

/-- The chunks cover a message of `nbits` bits. -/
theorem le_nblocks_mul (nbits : Nat) (hbl : 0 < bl) : nbits ≤ nblocks nbits bl * bl := by
  have split := Nat.div_add_mod' (nbits + bl - 1) bl
  have rest := Nat.mod_lt (nbits + bl - 1) hbl
  rw [nblocks, divUp]
  omega

theorem chunkPrefix_zero (hbl : 0 < bl) : chunkPrefix nbits bl msg 0 = 0 :=
  Nat.shiftRight_eq_zero _ _
    (message_lt.trans_le (Nat.pow_le_pow_right (by decide) (le_nblocks_mul nbits hbl)))

theorem chunkPrefix_nblocks : chunkPrefix nbits bl msg (nblocks nbits bl) = msg % 2 ^ nbits := by
  simp [chunkPrefix]

/-- Messages that agree before chunk `i` compare as their chunks `i` do, where these differ. -/
theorem order_of_chunk_ne (hi : i < nblocks nbits bl)
    (before : chunkPrefix nbits bl x i = chunkPrefix nbits bl y i)
    (hne : chunk nbits bl x i ≠ chunk nbits bl y i) :
    order (x % 2 ^ nbits) (y % 2 ^ nbits) = order (chunk nbits bl x i) (chunk nbits bl y i) := by
  have joined (z : Nat) : chunkPrefix nbits bl z (i + 1) =
      chunkPrefix nbits bl z i * 2 ^ bl + chunk nbits bl z i :=
    (chunkPrefix_succ hi).trans (joinHalves_eq chunk_lt)
  have differ : chunkPrefix nbits bl x (i + 1) ≠ chunkPrefix nbits bl y (i + 1) := by
    rw [joined, joined, before]
    exact fun h => hne (Nat.add_left_cancel h)
  calc order (x % 2 ^ nbits) (y % 2 ^ nbits)
      = order (chunkPrefix nbits bl x (i + 1)) (chunkPrefix nbits bl y (i + 1)) := order_shiftRight differ
    _ = order (chunk nbits bl x i) (chunk nbits bl y i) := by simp [joined, before, order]

end Chunks

/-! ### Where the parts of a ciphertext lie (R260) -/

/-- The Params for which R261 encrypts: what PINITL accepts (R202), even and for messages of 64 bits. -/
structure Encryptable (nbits bl : Nat) : Prop where
  word : nbits ≤ 64
  even : Even bl
  pos : 0 < bl
  le_max : bl ≤ 16
  fits : divUp bl 8 ≤ divUp nbits 8

/-- Record `i` of the ciphertext of `msg`. -/
def messageRecord (prf prp : ExpandedKey) (nonce : Block) (nbits bl msg i : Nat) : OreRecord :=
  blockRecord prf prp nonce bl i (chunkPrefix nbits bl msg i) (chunk nbits bl msg i)

section Layout

variable {prf prp : ExpandedKey} {nbits bl msg i : Nat} {nonce : Block}

theorem messageRecord_key : (messageRecord prf prp nonce nbits bl msg i).key =
    slotKey prf bl i (chunkPrefix nbits bl msg i) (messageRecord prf prp nonce nbits bl msg i).pix :=
  blockRecord_key ..

/-- `pix` is a chunk value (R163). -/
theorem messageRecord_pix_lt (h : Encryptable nbits bl) :
    (messageRecord prf prp nonce nbits bl msg i).pix < 2 ^ bl := prpFwd_lt _ h.even chunk_lt

theorem prpInv_messageRecord_pix (h : Encryptable nbits bl) :
    prpInv (chunkKeys prp i (chunkPrefix nbits bl msg i))
      (messageRecord prf prp nonce nbits bl msg i).pix bl = chunk nbits bl msg i :=
  prpInv_prpFwd _ h.even chunk_lt

theorem testBit_messageRecord_vec {j : Nat} (hj : j < 2 ^ bl) :
    (messageRecord prf prp nonce nbits bl msg i).vec.testBit j =
      (decide (prpInv (chunkKeys prp i (chunkPrefix nbits bl msg i)) j bl ≤ chunk nbits bl msg i) ^^
        (aes (keyExpansion nonce) (slotKey prf bl i (chunkPrefix nbits bl msg i) j)).getLsbD 0) := by
  rw [messageRecord, testBit_blockRecord_vec, decide_eq_true hj, Bool.true_and]

/-- The loop of R261 from block `nb - left` on. -/
theorem blockRecords_eq_map (h : Encryptable nbits bl) {left : Nat} (hleft : left ≤ nblocks nbits bl) :
    blockRecords prf prp nonce bl (nblocks nbits bl) (msg % 2 ^ nbits) left
        (chunkPrefix nbits bl msg (nblocks nbits bl - left)) =
      (List.range' (nblocks nbits bl - left) left).map (messageRecord prf prp nonce nbits bl msg) := by
  induction left with
  | zero => rfl
  | succ left ih =>
    have place : nblocks nbits bl - 1 - (nblocks nbits bl - (left + 1)) = left := by omega
    have next : nblocks nbits bl - left = nblocks nbits bl - (left + 1) + 1 := by omega
    have ih := ih (by omega)
    rw [next, ← Nat.mod_eq_of_lt (chunkPrefix_lt_word h.word), chunkPrefix_succ (by omega)] at ih
    rw [List.range'_succ, List.map_cons, ← ih, blockRecords, messageRecord, chunk, place]
    rfl

theorem blockRecords_eq (h : Encryptable nbits bl) :
    blockRecords prf prp nonce bl (nblocks nbits bl) (msg % 2 ^ nbits) (nblocks nbits bl) 0 =
      (List.range (nblocks nbits bl)).map (messageRecord prf prp nonce nbits bl msg) := by
  have records := blockRecords_eq_map (prf := prf) (prp := prp) (msg := msg) (nonce := nonce) h le_rfl
  rwa [Nat.sub_self, chunkPrefix_zero h.pos, ← List.range_eq_range'] at records

theorem blockEncrypt_left (h : Encryptable nbits bl) :
    (blockEncrypt prf prp nbits bl msg nonce).1 = (List.range (nblocks nbits bl)).flatMap fun i =>
      leftRecordBytes nbits bl (messageRecord prf prp nonce nbits bl msg i) := by
  rw [blockEncrypt, blockRecords_eq h, List.flatMap_map]

theorem blockEncrypt_right (h : Encryptable nbits bl) :
    (blockEncrypt prf prp nbits bl msg nonce).2 = blockBytes nonce ++
      (List.range (nblocks nbits bl)).flatMap fun i =>
        toBE (messageRecord prf prp nonce nbits bl msg i).vec (vectorBytes bl) := by
  simp only [blockEncrypt, blockRecords_eq h, List.flatMap_map, toBE_block]

/-- A slice of record `i` of the left component. -/
theorem slice_leftRecord (h : Encryptable nbits bl) {off n : Nat} (hi : i < nblocks nbits bl)
    (hn : off + n ≤ recordWidth nbits) :
    slice (blockEncrypt prf prp nbits bl msg nonce).1 (i * recordWidth nbits + off) n =
      slice (leftRecordBytes nbits bl (messageRecord prf prp nonce nbits bl msg i)) off n := by
  rw [blockEncrypt_left h, slice_flatMap (fun _ => leftRecordBytes_length h.fits _)
    (by simpa using hi) hn, List.getElem_range]

theorem slice_leftKey (h : Encryptable nbits bl) (hi : i < nblocks nbits bl) :
    slice (blockEncrypt prf prp nbits bl msg nonce).1 (i * recordWidth nbits) 16 =
      blockBytes (messageRecord prf prp nonce nbits bl msg i).key := by
  rw [← Nat.add_zero (i * recordWidth nbits), slice_leftRecord h hi (by rw [recordWidth]; omega),
    leftRecordBytes, List.append_assoc, slice_append_left (by simp), slice_self (by simp), toBE_block]

theorem be_slice_pix (h : Encryptable nbits bl) (hi : i < nblocks nbits bl) :
    be (slice (blockEncrypt prf prp nbits bl msg nonce).1 (i * recordWidth nbits + 16) (divUp bl 8)) =
      (messageRecord prf prp nonce nbits bl msg i).pix := by
  have hfits := h.fits
  rw [slice_leftRecord h hi (by rw [recordWidth]; omega), leftRecordBytes, List.append_assoc,
    ← Nat.add_zero 16, slice_append_right (by simp), slice_append_left (by simp),
    slice_self (by simp)]
  exact be_toBE_divUp (messageRecord_pix_lt h)

theorem slice_fill (h : Encryptable nbits bl) (hi : i < nblocks nbits bl) :
    slice (blockEncrypt prf prp nbits bl msg nonce).1 (i * recordWidth nbits + 16 + divUp bl 8)
      (recordWidth nbits - 16 - divUp bl 8) =
        List.replicate (recordWidth nbits - 16 - divUp bl 8) 0 := by
  have hfits := h.fits
  rw [Nat.add_assoc, slice_leftRecord h hi (by rw [recordWidth]; omega), leftRecordBytes,
    ← Nat.add_zero (16 + divUp bl 8), slice_append_right (by simp), slice_self (by simp)]

theorem slice_nonce (h : Encryptable nbits bl) :
    slice (blockEncrypt prf prp nbits bl msg nonce).2 0 16 = blockBytes nonce := by
  rw [blockEncrypt_right h, slice_append_left (by simp [blockBytes]), slice_self (by simp [blockBytes])]

theorem be_slice_vector (h : Encryptable nbits bl) (hi : i < nblocks nbits bl) :
    be (slice (blockEncrypt prf prp nbits bl msg nonce).2 (16 + i * vectorBytes bl) (vectorBytes bl)) =
      (messageRecord prf prp nonce nbits bl msg i).vec := by
  rw [blockEncrypt_right h, slice_append_right (by simp [blockBytes]), ← Nat.add_zero (i * vectorBytes bl),
    slice_flatMap (w := vectorBytes bl) (fun _ => toBE_length ..) (by simpa using hi) (by omega),
    List.getElem_range, slice_self (by simp)]
  exact be_toBE_divUp (blockRecord_vec_lt ..)

end Layout

/-- Settles O19: each part of a record is a slice of its component, and the records are those of the
message's chunks. -/
theorem blockEncryptLayout : Obligations.BlockEncryptLayout := by
  intro prf prp nbits bl msg nonce hn heven hbl hmax hfits _
  have h : Encryptable nbits bl := ⟨hn, Nat.even_iff.2 heven, by omega, hmax, hfits⟩
  refine ⟨blockEncrypt_left_length hfits .., blockEncrypt_right_length .., slice_nonce h, fun i hi =>
    ⟨?key, be_slice_pix h hi, prpFwd_lt _ h.even chunk_lt, slice_fill h hi, ?bound, fun j hj => ?slot⟩⟩
  case key => exact (slice_leftKey h hi).trans (congrArg blockBytes messageRecord_key)
  case bound => exact (be_slice_vector h hi).trans_lt (blockRecord_vec_lt ..)
  case slot => exact (congrArg (·.testBit j) (be_slice_vector h hi)).trans (testBit_messageRecord_vec hj)

/-! ### The order that ciphertexts reveal (R265) -/

section Order

variable {prf prp : ExpandedKey} {nbits bl x y i : Nat} {n1 n2 : Block}

/-- The PRF values of the slots of a block differ: the cipher keeps blocks apart. -/
theorem eq_of_slotKey_eq (hmax : bl ≤ 16) {pre a b : Nat} (ha : a < 2 ^ bl) (hb : b < 2 ^ bl)
    (h : slotKey prf bl i pre a = slotKey prf bl i pre b) : a = b := by
  have word : 2 ^ bl ≤ 2 ^ 64 := Nat.pow_le_pow_right (by decide) (by omega)
  have joined : joinHalves bl (pre, a) ≡ joinHalves bl (pre, b) [MOD 2 ^ 64] :=
    pair_eq_pair_iff.1 (aes_injective prf h)
  rw [joinHalves_eq ha, joinHalves_eq hb] at joined
  exact (Nat.ModEq.add_left_cancel' _ joined).eq_of_lt_of_lt (ha.trans_le word) (hb.trans_le word)

/-- Where the chunks before agree, the left key values agree exactly if the chunks do. -/
theorem leftKey_eq_iff (h : Encryptable nbits bl)
    (before : chunkPrefix nbits bl x i = chunkPrefix nbits bl y i) :
    (messageRecord prf prp n1 nbits bl x i).key = (messageRecord prf prp n2 nbits bl y i).key ↔
      chunk nbits bl x i = chunk nbits bl y i := by
  constructor
  · intro same
    rw [messageRecord_key, messageRecord_key, before] at same
    have pix := eq_of_slotKey_eq h.le_max (messageRecord_pix_lt h) (messageRecord_pix_lt h) same
    rw [← prpInv_messageRecord_pix h, pix, before, prpInv_messageRecord_pix h]
  · intro same
    rw [messageRecord, messageRecord, blockRecord_key, blockRecord_key, before, same]

/-- At the first differing chunk the slot of the one value in the vector of the other holds how the two
compare, and the mask is the same on both sides. -/
theorem blockDecide_eq_order (h : Encryptable nbits bl) (hi : i < nblocks nbits bl)
    (before : chunkPrefix nbits bl x i = chunkPrefix nbits bl y i)
    (hne : chunk nbits bl x i ≠ chunk nbits bl y i) :
    blockDecide nbits bl i (blockEncrypt prf prp nbits bl x n1).1 (blockEncrypt prf prp nbits bl y n2).2 =
      some (order (x % 2 ^ nbits) (y % 2 ^ nbits)) := by
  have pix_lt := messageRecord_pix_lt (prf := prf) (prp := prp) (nonce := n1) (msg := x) (i := i) h
  simp only [blockDecide_eq, be_slice_pix h hi, be_slice_vector h hi, slice_nonce h, slice_leftKey h hi,
    blockOfBytes_blockBytes]
  rw [if_neg (Nat.not_le.2 pix_lt), testBit_messageRecord_vec pix_lt, messageRecord_key, ← before,
    prpInv_messageRecord_pix h, Bool.xor_assoc, Bool.xor_self, Bool.xor_false,
    order_of_chunk_ne hi before hne, order, if_neg hne]
  simp only [decide_eq_true_eq, hne.le_iff_lt, apply_ite some]

/-- The scan from chunk `nb - left` on, once the messages agree before it. -/
theorem blockCompareLoop_eq_order (h : Encryptable nbits bl) {left : Nat} (hleft : left ≤ nblocks nbits bl)
    (before : chunkPrefix nbits bl x (nblocks nbits bl - left) =
      chunkPrefix nbits bl y (nblocks nbits bl - left)) :
    blockCompareLoop nbits bl (nblocks nbits bl) (blockEncrypt prf prp nbits bl x n1).1
        (blockEncrypt prf prp nbits bl y n2).1 (blockEncrypt prf prp nbits bl y n2).2 left =
      some (order (x % 2 ^ nbits) (y % 2 ^ nbits)) := by
  induction left with
  | zero =>
    rw [Nat.sub_zero, chunkPrefix_nblocks, chunkPrefix_nblocks] at before
    rw [before, order_self]
    rfl
  | succ left ih =>
    have hi : nblocks nbits bl - (left + 1) < nblocks nbits bl := by omega
    have next : nblocks nbits bl - left = nblocks nbits bl - (left + 1) + 1 := by omega
    rw [blockCompareLoop_succ, slice_leftKey h hi, slice_leftKey h hi]
    simp only [blockBytes_injective.eq_iff, leftKey_eq_iff h before]
    split
    case isTrue same =>
      refine ih (by omega) ?_
      rw [next, chunkPrefix_succ hi, chunkPrefix_succ hi, before, same]
    case isFalse differ => exact blockDecide_eq_order h hi before differ

/-- The left component depends on the message modulo `2^nbits` and not on the nonce. -/
theorem blockEncrypt_left_congr (h : Encryptable nbits bl) (same : x % 2 ^ nbits = y % 2 ^ nbits) :
    (blockEncrypt prf prp nbits bl x n1).1 = (blockEncrypt prf prp nbits bl y n2).1 := by
  simp only [blockEncrypt_left h, leftRecordBytes, messageRecord, blockRecord_key, blockRecord_pix,
    chunk, chunkPrefix, same]

/-- The right component begins with its nonce. -/
theorem nonce_eq_of_blockEncrypt_right (h : Encryptable nbits bl)
    (same : (blockEncrypt prf prp nbits bl x n1).2 = (blockEncrypt prf prp nbits bl y n2).2) : n1 = n2 := by
  have nonces := congrArg (slice · 0 16) same
  rw [slice_nonce h, slice_nonce h] at nonces
  exact blockBytes_injective nonces

end Order

/-- Settles O23: the scan starts with no chunk seen, on records that are those of the messages. -/
theorem blockOrderIsRevealed : Obligations.BlockOrderIsRevealed := by
  intro prf prp nbits bl x y n1 n2 hn heven hbl hmax hfits
  have h : Encryptable nbits bl := ⟨hn, Nat.even_iff.2 heven, by omega, hmax, hfits⟩
  have noChunk (z : Nat) : chunkPrefix nbits bl z (nblocks nbits bl - nblocks nbits bl) = 0 := by
    rw [Nat.sub_self]
    exact chunkPrefix_zero h.pos
  exact ⟨blockCompareLoop_eq_order h le_rfl ((noChunk x).trans (noChunk y).symm),
    blockEncrypt_left_congr h, mt (nonce_eq_of_blockEncrypt_right h)⟩

/-! ### OBENC (R262) -/

/-- Two strings of known lengths, stored one directly after the other. -/
theorem Memory.writeBytes_writeBytes {m : Memory} (hwf : m.wf = true) (a : Nat) {l r : List Byte}
    {n k : Nat} (hl : l.length = n) (hr : r.length = k) :
    let m' := (m.writeBytes a l).writeBytes (a + n) r
    m'.bytes a n = l ∧ m'.bytes (a + n) k = r ∧
      ∀ c, c < a ∨ a + (n + k) ≤ c → m'.read c = m.read c := by
  subst hl hr
  refine ⟨bytes_eq rfl fun i hi => ?first, bytes_writeBytes (wf_writeBytes hwf a l) _ r,
    fun c hc => ?outside⟩
  case first => rw [read_writeBytes_outside _ r (by omega), read_writeBytes_inside hwf a l i hi]
  case outside => rw [read_writeBytes_outside _ r (by omega), read_writeBytes_outside m l (by omega)]

/-- A descriptor write after a store and a draw of the generator. -/
theorem wroteC_drawn {s u : State} (frame : ChangesOnly [.g, .oracle] s u) (m : Memory) (cd : CReg)
    (v : Ciphertext) : WroteC [.mem, .g, .oracle] cd v s ((u.setMem m).setC cd v).done := by
  refine ⟨by simp, fun j hj => ?others, rfl, by simpa using frame.mono (by decide)⟩
  exact (State.setC_getC_ne (u.setMem m) cd v j hj).trans (congrArg (·[j]) (frame .ct (by decide)))

/-- Settles O50: the checks and the draw in order, then the two components one after the other; that the
left one has its length is the third check of R202, which the descriptor's Params have passed. -/
theorem blockEncryptCommand : Obligations.BlockEncryptCommand := by
  rintro s cd ss xmsg hwf ⟨-, -, hct⟩
  refine ⟨decode_wordR rfl, ends_checkThen rfl Iff.rfl (raised_raise s .keyNotInit) fun _ h =>
    ends_checkThen h not_or (raised_raise s .ctNotInit) fun husable h =>
    ends_checkThen h Iff.rfl (raised_raise s .paramsMismatch) fun _ h =>
    ends_checkThen (h.trans (congrArg _ (ite_or ..).symm)) Iff.rfl (raised_raise s .param) fun hblock h =>
    ends_checkThen h Iff.rfl (raised_raise s .unsupported) fun _ h => ?_⟩
  cases used : generatorUsed s with
  | none =>
    rw [genNext_eq, used] at h
    exact ⟨generatorUsed_none s used, ends_next s h (raisedRandomness_one s)⟩
  | some g =>
    have answer : s.genNext = (some (aes g.rk g.ctr), s.genNext.2) := by rw [genNext_eq, used]
    rw [answer] at h
    obtain ⟨-, -, valid⟩ := hct cd (by tauto)
    obtain ⟨-, -, hfits⟩ := valid (not_not.1 (not_or.1 hblock).1)
    refine ends_next s h ⟨wroteC_drawn (genNext_changesOnly s) _ cd _, genNext_g used,
      oracleAsked_genNext s, ?_⟩
    simp only [MemOutside, State.done_mem, State.setC_mem, State.setMem_mem]
    exact Memory.writeBytes_writeBytes hwf _ (blockEncrypt_left_length hfits ..)
      (blockEncrypt_right_length ..)

/-! ### OBCMP (R264) -/

theorem blockCompare_self (nbits bl : Nat) (left right : List Byte) :
    blockCompare nbits bl left left right = some 0 := by
  rw [blockCompare_eq_loop nbits bl left left right le_rfl fun _ _ => rfl, Nat.sub_self]
  rfl

theorem blockCompareLoop_range {nbits bl nb left : Nat} {leftA leftB rightB : List Byte} {q : Int}
    (h : blockCompareLoop nbits bl nb leftA leftB rightB left = some q) : q = -1 ∨ q = 0 ∨ q = 1 := by
  induction left with
  | zero => exact .inr (.inl (Option.some.inj h).symm)
  | succ left ih =>
    rw [blockCompareLoop_succ] at h
    split at h
    · exact ih h
    · rw [blockDecide_eq] at h
      dsimp only at h
      split_ifs at h
      · exact .inl (Option.some.inj h).symm
      · exact .inr (.inr (Option.some.inj h).symm)

/-- Settles O51: the checks in order, the last of them inside the comparison; its result is one of three
numbers, and the comparison of a ciphertext with itself passes over every block. -/
theorem blockCompareCommand : Obligations.BlockCompareCommand := by
  intro s xd ca cb
  refine ⟨decode_wordR rfl, ends_checkThen rfl Iff.rfl (raised_raise s .ctNotInit) fun _ h =>
    ends_checkThen h Iff.rfl (raised_raise s .paramsMismatch) fun _ h =>
    ends_checkThen h Iff.rfl (raised_raise s .param) fun _ h => ⟨?same, ?compare⟩⟩
  case same =>
    rintro rfl
    exact blockCompare_self ..
  case compare =>
    dsimp only at h ⊢
    split
    next outOfRange =>
      rw [outOfRange] at h
      exact ends_next s h (raised_raise s .param)
    next q result =>
      rw [result] at h
      have range := blockCompareLoop_range result
      exact ⟨range, ends_wroteX h (compareWord_eq range)⟩

end Sys2Proof.Machine
